-- ==== Sys2Proof/Word.lean ====
section
/-! DEFINITION. The machine's two word widths (00_scope.md R4, R5: every value is unsigned). -/

namespace Sys2Proof

/-- 8 bits: a byte of memory, a V register, a timer (00_scope.md R4). -/
abbrev Byte := BitVec 8

/-- 16 bits: I, PC, a return address, an instruction word (00_scope.md R4). -/
abbrev Word := BitVec 16

end Sys2Proof
end

