-- ==== Sys2Proof/Config.lean ====
section
/-! DEFINITION. What 00_scope.md R4 leaves to an implementation: IPT, FONT_BASE (92_eei_decisions.md D16) and the random
byte (10_state.md R33). R4's fixed parameters are written as numbers where they are used: MEM_SIZE 4096, PROG_BASE 0x200,
ROM_MAX 3584, 16 registers, 16 stack entries, a 64 x 32 screen, 16 glyphs of FONT_STRIDE 5, that is 80 font bytes. -/

namespace Sys2Proof

/-- IPT's default, instructions executed per tick (00_scope.md R4, 92_eei_decisions.md D29).
No rule of the core depends on it. -/
abbrev Config.defaultIpt : Nat := 10

/-- FONT_BASE, an OPEN parameter with 0 <= FONT_BASE <= 0x1B0 (20_memory.md R62, D16).
It has no value a proof could see: every statement holds for each of the 433 bases. Log 4. -/
opaque Config.fontBase : Fin 433

/-- The random byte that draw number `n` samples: a free draw (10_state.md R33, 45_timers_keys_random.md R180).
It has no body, so no generator, seed or relation between draws can be assumed. Log 6. -/
opaque Config.rndDraw : Nat → Byte

end Sys2Proof
end

