-- ==== Sys2Proof/Syntax.lean ====
section
/-! DEFINITION. The 34 instructions of spec/opcode_table.json, one constructor per row (30_encoding.md R94).
Operand types are the field widths of 30_encoding.md R91, so an operand outside its field cannot be written. -/

namespace Sys2Proof

/-- A register number, the 4-bit field X or Y (30_encoding.md R91); all 16 are legal (R93). -/
abbrev RegId := Fin 16

/-- VF, the register that doubles as the flag (10_state.md R21). -/
abbrev RegId.vf : RegId := 15

/-- The instruction set. Each docstring gives the source mnemonic, the pattern and the rule of the meaning. -/
inductive Instr where
  /-- `CLS`, 00E0 (R160). -/
  | cls
  /-- `RET`, 00EE (R142). -/
  | ret
  /-- `JP NNN`, 1NNN (R140). -/
  | jpNnn (nnn : BitVec 12)
  /-- `CALL NNN`, 2NNN (R141). -/
  | callNnn (nnn : BitVec 12)
  /-- `SE Vx, NN`, 3XNN (R150). -/
  | seVxNn (x : RegId) (nn : Byte)
  /-- `SNE Vx, NN`, 4XNN (R151). -/
  | sneVxNn (x : RegId) (nn : Byte)
  /-- `SE Vx, Vy`, 5XY0 (R152). -/
  | seVxVy (x y : RegId)
  /-- `LD Vx, NN`, 6XNN (R120). -/
  | ldVxNn (x : RegId) (nn : Byte)
  /-- `ADD Vx, NN`, 7XNN (R121). -/
  | addVxNn (x : RegId) (nn : Byte)
  /-- `LD Vx, Vy`, 8XY0 (R122). -/
  | ldVxVy (x y : RegId)
  /-- `OR Vx, Vy`, 8XY1 (R123). -/
  | orVxVy (x y : RegId)
  /-- `AND Vx, Vy`, 8XY2 (R124). -/
  | andVxVy (x y : RegId)
  /-- `XOR Vx, Vy`, 8XY3 (R125). -/
  | xorVxVy (x y : RegId)
  /-- `ADD Vx, Vy`, 8XY4 (R126). -/
  | addVxVy (x y : RegId)
  /-- `SUB Vx, Vy`, 8XY5 (R127). -/
  | subVxVy (x y : RegId)
  /-- `SHR Vx, Vy`, 8XY6 (R128). -/
  | shrVxVy (x y : RegId)
  /-- `SUBN Vx, Vy`, 8XY7 (R129). -/
  | subnVxVy (x y : RegId)
  /-- `SHL Vx, Vy`, 8XYE (R130). -/
  | shlVxVy (x y : RegId)
  /-- `SNE Vx, Vy`, 9XY0 (R153). -/
  | sneVxVy (x y : RegId)
  /-- `LD I, NNN`, ANNN (R170). -/
  | ldINnn (nnn : BitVec 12)
  /-- `JP V0, NNN`, BNNN (R143). -/
  | jpV0Nnn (nnn : BitVec 12)
  /-- `RND Vx, NN`, CXNN (R180). -/
  | rndVxNn (x : RegId) (nn : Byte)
  /-- `DRW Vx, Vy, N`, DXYN (R161); `n` rows, 0 to 15. -/
  | drwVxVyN (x y : RegId) (n : Fin 16)
  /-- `SKP Vx`, EX9E (R154). -/
  | skpVx (x : RegId)
  /-- `SKNP Vx`, EXA1 (R155). -/
  | sknpVx (x : RegId)
  /-- `LD Vx, DT`, FX07 (R181). -/
  | ldVxDt (x : RegId)
  /-- `LD Vx, K`, FX0A (R184). -/
  | ldVxK (x : RegId)
  /-- `LD DT, Vx`, FX15 (R182). -/
  | ldDtVx (x : RegId)
  /-- `LD ST, Vx`, FX18 (R183). -/
  | ldStVx (x : RegId)
  /-- `ADD I, Vx`, FX1E (R171). -/
  | addIVx (x : RegId)
  /-- `LD F, Vx`, FX29 (R172). -/
  | ldFVx (x : RegId)
  /-- `LD B, Vx`, FX33 (R173). -/
  | ldBVx (x : RegId)
  /-- `LD [I], Vx`, FX55, the register dump (R174). -/
  | ldMemVx (x : RegId)
  /-- `LD Vx, [I]`, FX65, the register load (R175). -/
  | ldVxMem (x : RegId)
  deriving DecidableEq, Repr

end Sys2Proof
end

