-- ==== Sys2Proof/WellFormed.lean ====
section
/-! DEFINITION. What is checked before it reaches the machine. An instruction needs no check: its operand
types are exactly the encoding's fields (30_encoding.md R91) and all their values are legal (R93). What can be
ill-formed are the raw field values an assembler is given and the ROM image a loader is given. -/

namespace Sys2Proof

/-- A register or row-count operand, given as a number, fits its 4-bit field (30_encoding.md R91). -/
def wfNibble (k : Nat) : Bool := k < 16

/-- An 8-bit immediate, given as a number, fits its field (30_encoding.md R91). -/
def wfNN (k : Nat) : Bool := k < 256

/-- A 12-bit address, given as a number, fits its field (30_encoding.md R91). -/
def wfNNN (k : Nat) : Bool := k < 4096

/-- A ROM image the loader delivers: at most 3584 bytes, any contents, any length parity
(70_reset_and_hazards.md R242). -/
def wfRom (img : List Byte) : Bool := img.length ≤ 3584

/-- Well-formed instructions: all of them, with every field value (30_encoding.md R93). -/
def Instr.wellFormed : Instr → Bool
  | .cls | .ret => true
  | .jpNnn nnn | .callNnn nnn | .ldINnn nnn | .jpV0Nnn nnn => wfNNN nnn.toNat
  | .seVxNn x nn | .sneVxNn x nn | .ldVxNn x nn | .addVxNn x nn | .rndVxNn x nn => wfNibble x && wfNN nn.toNat
  | .seVxVy x y | .ldVxVy x y | .orVxVy x y | .andVxVy x y | .xorVxVy x y | .addVxVy x y | .subVxVy x y
  | .shrVxVy x y | .subnVxVy x y | .shlVxVy x y | .sneVxVy x y => wfNibble x && wfNibble y
  | .drwVxVyN x y n => wfNibble x && wfNibble y && wfNibble n
  | .skpVx x | .sknpVx x | .ldVxDt x | .ldVxK x | .ldDtVx x | .ldStVx x | .addIVx x | .ldFVx x | .ldBVx x
  | .ldMemVx x | .ldVxMem x => wfNibble x

end Sys2Proof
end

