-- ==== Sys2Proof/Decode.lean ====
section
/-! DEFINITION. Decoding: total on any bytes, rejecting by name; and the encoder, both written from the opcode
map of 30_encoding.md R94 with the fields of R91. Decode is a pure function of the word (R100). -/

namespace Sys2Proof

/-- The instruction word of two consecutive bytes, the lower address first: big-endian (20_memory.md R63). -/
def wordOfBytes (hi lo : Byte) : Word := hi ++ lo

/-- The high byte of a word, stored at the lower address (20_memory.md R63). -/
def hiByte (op : Word) : Byte := op.extractLsb' 8 8

/-- The low byte of a word (20_memory.md R63). -/
def loByte (op : Word) : Byte := op.extractLsb' 0 8

/-- Field `C`, op[15:12] (30_encoding.md R91). -/
def fieldC (op : Word) : BitVec 4 := op.extractLsb' 12 4

/-- Field `X`, op[11:8] (30_encoding.md R91). -/
def fieldX (op : Word) : RegId := (op.extractLsb' 8 4).toFin

/-- Field `Y`, op[7:4] (30_encoding.md R91). -/
def fieldY (op : Word) : RegId := (op.extractLsb' 4 4).toFin

/-- Field `N`, op[3:0] (30_encoding.md R91). -/
def fieldN (op : Word) : Fin 16 := (op.extractLsb' 0 4).toFin

/-- Field `NN`, op[7:0] (30_encoding.md R91). -/
def fieldNN (op : Word) : Byte := op.extractLsb' 0 8

/-- Field `NNN`, op[11:0] (30_encoding.md R91). -/
def fieldNNN (op : Word) : BitVec 12 := op.extractLsb' 0 12

/-- One row of the opcode map: a word `op` selects the row when `op &&& mask = pattern` (30_encoding.md R94). -/
structure OpcodeRow where
  mask : Word
  pattern : Word
  build : Word → Instr

/-- Whether a word selects a row (30_encoding.md R94). -/
def OpcodeRow.selects (r : OpcodeRow) (op : Word) : Bool := op &&& r.mask == r.pattern

/-- Rows with a fixed word or a class nibble and one wide field (30_encoding.md R94). -/
def rowsLow : List OpcodeRow :=
  [⟨0xFFFF, 0x00E0, fun _ => .cls⟩,
   ⟨0xFFFF, 0x00EE, fun _ => .ret⟩,
   ⟨0xF000, 0x1000, fun op => .jpNnn (fieldNNN op)⟩,
   ⟨0xF000, 0x2000, fun op => .callNnn (fieldNNN op)⟩,
   ⟨0xF000, 0x3000, fun op => .seVxNn (fieldX op) (fieldNN op)⟩,
   ⟨0xF000, 0x4000, fun op => .sneVxNn (fieldX op) (fieldNN op)⟩,
   ⟨0xF00F, 0x5000, fun op => .seVxVy (fieldX op) (fieldY op)⟩,
   ⟨0xF000, 0x6000, fun op => .ldVxNn (fieldX op) (fieldNN op)⟩,
   ⟨0xF000, 0x7000, fun op => .addVxNn (fieldX op) (fieldNN op)⟩]

/-- Rows of class 8 (30_encoding.md R94). -/
def rowsAlu : List OpcodeRow :=
  [⟨0xF00F, 0x8000, fun op => .ldVxVy (fieldX op) (fieldY op)⟩,
   ⟨0xF00F, 0x8001, fun op => .orVxVy (fieldX op) (fieldY op)⟩,
   ⟨0xF00F, 0x8002, fun op => .andVxVy (fieldX op) (fieldY op)⟩,
   ⟨0xF00F, 0x8003, fun op => .xorVxVy (fieldX op) (fieldY op)⟩,
   ⟨0xF00F, 0x8004, fun op => .addVxVy (fieldX op) (fieldY op)⟩,
   ⟨0xF00F, 0x8005, fun op => .subVxVy (fieldX op) (fieldY op)⟩,
   ⟨0xF00F, 0x8006, fun op => .shrVxVy (fieldX op) (fieldY op)⟩,
   ⟨0xF00F, 0x8007, fun op => .subnVxVy (fieldX op) (fieldY op)⟩,
   ⟨0xF00F, 0x800E, fun op => .shlVxVy (fieldX op) (fieldY op)⟩]

/-- Rows of classes 9 to E (30_encoding.md R94). -/
def rowsMid : List OpcodeRow :=
  [⟨0xF00F, 0x9000, fun op => .sneVxVy (fieldX op) (fieldY op)⟩,
   ⟨0xF000, 0xA000, fun op => .ldINnn (fieldNNN op)⟩,
   ⟨0xF000, 0xB000, fun op => .jpV0Nnn (fieldNNN op)⟩,
   ⟨0xF000, 0xC000, fun op => .rndVxNn (fieldX op) (fieldNN op)⟩,
   ⟨0xF000, 0xD000, fun op => .drwVxVyN (fieldX op) (fieldY op) (fieldN op)⟩,
   ⟨0xF0FF, 0xE09E, fun op => .skpVx (fieldX op)⟩,
   ⟨0xF0FF, 0xE0A1, fun op => .sknpVx (fieldX op)⟩]

/-- Rows of class F (30_encoding.md R94). -/
def rowsHigh : List OpcodeRow :=
  [⟨0xF0FF, 0xF007, fun op => .ldVxDt (fieldX op)⟩,
   ⟨0xF0FF, 0xF00A, fun op => .ldVxK (fieldX op)⟩,
   ⟨0xF0FF, 0xF015, fun op => .ldDtVx (fieldX op)⟩,
   ⟨0xF0FF, 0xF018, fun op => .ldStVx (fieldX op)⟩,
   ⟨0xF0FF, 0xF01E, fun op => .addIVx (fieldX op)⟩,
   ⟨0xF0FF, 0xF029, fun op => .ldFVx (fieldX op)⟩,
   ⟨0xF0FF, 0xF033, fun op => .ldBVx (fieldX op)⟩,
   ⟨0xF0FF, 0xF055, fun op => .ldMemVx (fieldX op)⟩,
   ⟨0xF0FF, 0xF065, fun op => .ldVxMem (fieldX op)⟩]

/-- The opcode map, complete: 34 rows (30_encoding.md R94). -/
def opcodeMap : List OpcodeRow := rowsLow ++ rowsAlu ++ rowsMid ++ rowsHigh

/-- The instruction a word selects; `none` for an UnknownOpcode word (30_encoding.md R94, R95). -/
def decodeWord (op : Word) : Option Instr :=
  (opcodeMap.find? (fun r => r.selects op)).map (fun r => r.build op)

/-- Why bytes are no instruction. -/
inductive DecodeError where
  /-- Fewer than the two bytes of an instruction (30_encoding.md R90). -/
  | truncated
  /-- The word matches no row of the opcode map: UnknownOpcode (30_encoding.md R95). -/
  | unknownOpcode (op : Word)
  deriving DecidableEq, Repr

/-- Decode the instruction at the head of a byte list and give the rest of the list. -/
def decode : List Byte → Except DecodeError (Instr × List Byte)
  | hi :: lo :: rest =>
    match decodeWord (wordOfBytes hi lo) with
    | some i => .ok (i, rest)
    | none => .error (.unknownOpcode (wordOfBytes hi lo))
  | [_] => .error .truncated
  | [] => .error .truncated

/-- The decoder on an opcode-table word, laid out as the hardware stores it: high byte first. -/
def decodeTableWord (nbits w : Nat) : Option Instr :=
  let op : Word := BitVec.ofNat 16 (w % 2 ^ nbits)
  match decode [hiByte op, loByte op] with
  | .ok (i, _) => some i
  | .error _ => none

/-- The 4 bits of a register number or row count (30_encoding.md R91). -/
def nibble (k : Fin 16) : BitVec 4 := BitVec.ofFin k

/-- Format XNN: `CXNN` (30_encoding.md R92). -/
def encodeXNN (c : BitVec 4) (x : RegId) (nn : Byte) : Word := c ++ nibble x ++ nn

/-- Formats XY and XYN: `CXYs` (30_encoding.md R92). -/
def encodeXYN (c : BitVec 4) (x y : RegId) (n : Fin 16) : Word := c ++ nibble x ++ nibble y ++ nibble n

/-- Format NNN: `CNNN` (30_encoding.md R92). -/
def encodeNNN (c : BitVec 4) (nnn : BitVec 12) : Word := c ++ nnn

/-- The encoder: the word of an instruction (30_encoding.md R92, R94). -/
def encode : Instr → Word
  | .cls => 0x00E0
  | .ret => 0x00EE
  | .jpNnn nnn => encodeNNN 0x1 nnn
  | .callNnn nnn => encodeNNN 0x2 nnn
  | .seVxNn x nn => encodeXNN 0x3 x nn
  | .sneVxNn x nn => encodeXNN 0x4 x nn
  | .seVxVy x y => encodeXYN 0x5 x y 0x0
  | .ldVxNn x nn => encodeXNN 0x6 x nn
  | .addVxNn x nn => encodeXNN 0x7 x nn
  | .ldVxVy x y => encodeXYN 0x8 x y 0x0
  | .orVxVy x y => encodeXYN 0x8 x y 0x1
  | .andVxVy x y => encodeXYN 0x8 x y 0x2
  | .xorVxVy x y => encodeXYN 0x8 x y 0x3
  | .addVxVy x y => encodeXYN 0x8 x y 0x4
  | .subVxVy x y => encodeXYN 0x8 x y 0x5
  | .shrVxVy x y => encodeXYN 0x8 x y 0x6
  | .subnVxVy x y => encodeXYN 0x8 x y 0x7
  | .shlVxVy x y => encodeXYN 0x8 x y 0xE
  | .sneVxVy x y => encodeXYN 0x9 x y 0x0
  | .ldINnn nnn => encodeNNN 0xA nnn
  | .jpV0Nnn nnn => encodeNNN 0xB nnn
  | .rndVxNn x nn => encodeXNN 0xC x nn
  | .drwVxVyN x y n => encodeXYN 0xD x y n
  | .skpVx x => encodeXNN 0xE x 0x9E
  | .sknpVx x => encodeXNN 0xE x 0xA1
  | .ldVxDt x => encodeXNN 0xF x 0x07
  | .ldVxK x => encodeXNN 0xF x 0x0A
  | .ldDtVx x => encodeXNN 0xF x 0x15
  | .ldStVx x => encodeXNN 0xF x 0x18
  | .addIVx x => encodeXNN 0xF x 0x1E
  | .ldFVx x => encodeXNN 0xF x 0x29
  | .ldBVx x => encodeXNN 0xF x 0x33
  | .ldMemVx x => encodeXNN 0xF x 0x55
  | .ldVxMem x => encodeXNN 0xF x 0x65

/-- The two bytes of an instruction as memory holds them, the lower address first (20_memory.md R63). -/
def encodeBytes (i : Instr) : List Byte := [hiByte (encode i), loByte (encode i)]

end Sys2Proof
end

