-- ==== Sys2Proof/Machine/Frame.lean ====
section
/-! DEFINITION. The framebuffer and its pixel writer (10_state.md R28, 43_draw.md R161, R162). -/

namespace Sys2Proof.Machine

/-- 64 x 32 one-bit pixels: 32 rows, the top row first; bit `x` of a row is the pixel of column `x`. -/
abbrev Frame := Vector (BitVec 64) 32

/-- The framebuffer with all 2048 pixels 0. -/
def blankFrame : Frame := Vector.replicate 32 0

/-- Pixel `fb[y][x]` (10_state.md R28). -/
def framePixel (f : Frame) (x : Fin 64) (y : Fin 32) : Bool := f[y.val].getLsbD x

/-- `fb[y][x] <- fb[y][x] ^ 1` (43_draw.md R161). -/
def toggleFrame (f : Frame) (x : Fin 64) (y : Fin 32) : Frame :=
  f.set y.val (f[y.val] ^^^ BitVec.twoPow 64 x.val)

/-- `Place(p, size, wrap)`: where a coordinate falls, or `none` when it is clipped (43_draw.md R162). -/
def place (size : Nat) [NeZero size] (wrap : Bool) (p : Nat) : Option (Fin size) :=
  if h : p < size then some ⟨p, h⟩
  else if wrap then some (Fin.ofNat size p)
  else none

/-- `wrap_x <- vw`: whether pixels past the right edge wrap (43_draw.md R162, 92_eei_decisions.md D13, log 8). -/
def wrapX (vw : Bool) : Bool := vw

/-- `wrap_y <- vw`: whether rows past the bottom edge wrap (43_draw.md R162, 92_eei_decisions.md D13, log 8). -/
def wrapY (vw : Bool) : Bool := vw

/-- What a draw carries: the framebuffer and `hit` (43_draw.md R161). -/
structure Drawing where
  frame : Frame
  hit : Bool
  deriving DecidableEq, Repr

/-- Toggle one placed pixel and record a hit if it was set (43_draw.md R161, the innermost lines). -/
def drawPixel (d : Drawing) (x : Fin 64) (y : Fin 32) : Drawing :=
  ⟨toggleFrame d.frame x y, d.hit || framePixel d.frame x y⟩

/-- Column `c` of a sprite row: bit `7 - c` of its byte (43_draw.md R161). -/
def spriteBit (row : Byte) (c : Nat) : Bool := row.getLsbD (7 - c)

/-- Draw the columns `cs` of one sprite row whose column 0 is at `x0` (43_draw.md R161). -/
def drawColumns (wx : Bool) (x0 : Nat) (y : Fin 32) (row : Byte) : List Nat → Drawing → Drawing
  | [], d => d
  | c :: cs, d =>
    drawColumns wx x0 y row cs <|
      if spriteBit row c then
        match place 64 wx (x0 + c) with
        | some x => drawPixel d x y
        | none => d
      else d

/-- Draw the sprite rows from vertical coordinate `p` on, top row first (43_draw.md R161). -/
def drawRows (wx wy : Bool) (x0 : Nat) : Nat → List Byte → Drawing → Drawing
  | _, [], d => d
  | p, row :: rows, d =>
    drawRows wx wy x0 (p + 1) rows <|
      match place 32 wy p with
      | some y => drawColumns wx x0 y row (List.range 8) d
      | none => d

end Sys2Proof.Machine
end

