-- ==== Sys2Proof/Machine/Faults.lean ====
section
/-! DEFINITION. The three fatal faults the core itself detects, and what raising one carries
(60_exceptions.md R200 to R203). Entering a fault is `State.raise` in Ops.lean. -/

namespace Sys2Proof.Machine

/-- The value of the `fault` register (60_exceptions.md R200). -/
inductive FaultCode where
  /-- Code 0: no fault. -/
  | none
  /-- Code 1: `CALL` with `sp` = 16 (R201). -/
  | stackOverflow
  /-- Code 2: `RET` with `sp` = 0 (R202). -/
  | stackUnderflow
  /-- Code 3: an address above 4095 (R203). -/
  | memoryFault
  deriving DecidableEq, Repr

/-- The 3-bit code on `fault_out`; codes 4 to 7 are never produced (60_exceptions.md R200). -/
def faultBits : FaultCode → BitVec 3
  | .none => 0
  | .stackOverflow => 1
  | .stackUnderflow => 2
  | .memoryFault => 3

/-- `raise <Fault>(info)` of 00_scope.md R6. The `info` is for the reader and for diagnostics only: no state
records it (60_exceptions.md R200). -/
inductive Raise where
  /-- `CALL` at depth 16; the fetch address of the `CALL`. -/
  | stackOverflow (fetchAddr : Word)
  /-- `RET` at depth 0; the fetch address of the `RET`. -/
  | stackUnderflow (fetchAddr : Word)
  /-- An access out of memory; the lowest out-of-range address (60_exceptions.md R207). -/
  | memoryFault (addr : Nat)
  deriving DecidableEq, Repr

/-- The code a raise writes to the `fault` register (60_exceptions.md R200). -/
def raiseCode : Raise → FaultCode
  | .stackOverflow _ => .stackOverflow
  | .stackUnderflow _ => .stackUnderflow
  | .memoryFault _ => .memoryFault

end Sys2Proof.Machine
end

