-- ==== Sys2Proof/Machine/Memory.lean ====
section
/-! DEFINITION. The 4096-byte memory: its canonical form, its reset contents, its access primitives
(20_memory.md R60 to R64). -/

namespace Sys2Proof.Machine

/-- Memory as the cells that differ from the reset contents, addresses strictly rising. -/
abbrev Memory := List Host.Cell

/-- Glyphs 0 to 7 of the font table (20_memory.md R62). -/
def fontLow : List Byte :=
  [0xF0, 0x90, 0x90, 0x90, 0xF0] ++ [0x20, 0x60, 0x20, 0x20, 0x70] ++
  [0xF0, 0x10, 0xF0, 0x80, 0xF0] ++ [0xF0, 0x10, 0xF0, 0x10, 0xF0] ++
  [0x90, 0x90, 0xF0, 0x10, 0x10] ++ [0xF0, 0x80, 0xF0, 0x10, 0xF0] ++
  [0xF0, 0x80, 0xF0, 0x90, 0xF0] ++ [0xF0, 0x10, 0x20, 0x40, 0x40]

/-- Glyphs 8 to F of the font table (20_memory.md R62). -/
def fontHigh : List Byte :=
  [0xF0, 0x90, 0xF0, 0x90, 0xF0] ++ [0xF0, 0x90, 0xF0, 0x10, 0xF0] ++
  [0xF0, 0x90, 0xF0, 0x90, 0x90] ++ [0xE0, 0x90, 0xE0, 0x90, 0xE0] ++
  [0xF0, 0x80, 0x80, 0x80, 0xF0] ++ [0xE0, 0x90, 0x90, 0x90, 0xE0] ++
  [0xF0, 0x80, 0xF0, 0x80, 0xF0] ++ [0xF0, 0x80, 0xF0, 0x80, 0x80]

/-- The 80 bytes `FONT[0]` to `FONT[79]`: glyph `d` is bytes 5*d to 5*d+4, top row first (20_memory.md R62).
The byte values are the spec's, marked general knowledge there (log 5). -/
def fontTable : List Byte := fontLow ++ fontHigh

/-- FONT_BASE as an address (20_memory.md R62, log 4). -/
def fontBase : Nat := Config.fontBase.val

/-- Whether an address lies in the font table; it can only lie in the reserved region, since
FONT_BASE is at most 0x1B0 (20_memory.md R62). -/
def inFont (a : Nat) : Bool :=
  decide (a < 0x200) && (decide (fontBase ≤ a) && decide (a < fontBase + 80))

/-- What an address that no cell lists reads as: the contents after cold reset, the font table at FONT_BASE and
zero elsewhere (70_reset_and_hazards.md R240). -/
def unwritten (a : Nat) : Byte :=
  bif inFont a then fontTable.getD (a - fontBase) 0 else 0

/-- Read one byte (20_memory.md R67: plain storage, no side effect). -/
def Memory.read (m : Memory) (a : Nat) : Byte :=
  match m.find? (fun c => c.1 == a) with
  | some c => c.2
  | none => unwritten a

/-- Remove an address's cell: it then reads as after cold reset. -/
def Memory.erase (m : Memory) (a : Nat) : Memory := m.filter (fun c => c.1 != a)

/-- Put a cell in its place in the rising order. -/
def Memory.insert : Memory → Nat → Byte → Memory
  | [], a, b => [(a, b)]
  | c :: m, a, b =>
    if a < c.1 then (a, b) :: c :: m
    else if a = c.1 then (a, b) :: m
    else c :: Memory.insert m a b

/-- Write one byte, keeping the canonical form: writing what the unlisted address reads as removes the cell. -/
def Memory.write (m : Memory) (a : Nat) (b : Byte) : Memory :=
  if b = unwritten a then Memory.erase m a else Memory.insert m a b

/-- Write bytes at ascending addresses, the first at `a`. -/
def Memory.writeAll : Memory → Nat → List Byte → Memory
  | m, _, [] => m
  | m, a, b :: bs => Memory.writeAll (Memory.write m a b) (a + 1) bs

/-- The canonical form: addresses strictly rising and inside memory, no cell equal to the reset contents. -/
abbrev Memory.wf (m : Memory) : Prop :=
  m.Pairwise (fun c d => c.1 < d.1) ∧ ∀ c ∈ m, c.1 < 4096 ∧ c.2 ≠ unwritten c.1

/-- Every address of `base` to `base + n - 1` is at most 4095 (20_memory.md R64). The sum is taken without wrap. -/
abbrev InRange (base n : Nat) : Prop := n = 0 ∨ base + n ≤ 4096

/-- The MemoryFault of an access that is not in range; its info is the lowest bad address (60_exceptions.md R207). -/
def rangeFault (base : Nat) : Raise := .memoryFault (max base 4096)

/-- `MemRead` over `n` consecutive bytes: every bound is checked first (20_memory.md R64). -/
def Memory.load (m : Memory) (base n : Nat) : Except Raise (List Byte) :=
  if InRange base n then .ok ((List.range n).map fun k => m.read (base + k)) else .error (rangeFault base)

/-- `MemWrite` over consecutive bytes: every bound is checked before the first byte is written
(20_memory.md R64, 92_eei_decisions.md D5). -/
def Memory.store (m : Memory) (base : Nat) (bs : List Byte) : Except Raise Memory :=
  if InRange base bs.length then .ok (m.writeAll base bs) else .error (rangeFault base)

/-- Clear the program region 0x200 to 0xFFF to zero (70_reset_and_hazards.md R241): its cells are dropped, and an
unlisted address of that region reads as zero. -/
def Memory.clearProgram (m : Memory) : Memory := m.filter (fun c => decide (c.1 < 0x200))

/-- Restore the font bytes (70_reset_and_hazards.md R241): the table's cells are dropped, and an unlisted address
of the table reads as its font byte. -/
def Memory.restoreFont (m : Memory) : Memory := m.filter (fun c => !inFont c.1)

end Sys2Proof.Machine
end

