-- ==== Sys2Proof/Machine/State.lean ====
section
/-! DEFINITION. The machine's state: everything 10_state.md names, the inputs the core samples, and the host's
coming events. INVENTORY.md, heading State, lists each field with its rule and reset value. -/

namespace Sys2Proof.Machine

/-- The reasons a step may stop the model: NONE. The spec's fatal faults have an entry the spec describes
(60_exceptions.md R205), so they are next states, and a terminated machine's passes change nothing
(10_state.md R31). No constructor, so no definition can raise one: safe. Log 1. -/
inductive Fault : Type
  deriving DecidableEq, Repr

/-- The reasons the model may have no meaning. -/
inductive Refusal where
  /-- Raised only by a refused arm of `exec`, for an instruction without a meaning yet: safe.
  No arm is refused today. -/
  | notModelled (mnemonic : String)
  deriving DecidableEq, Repr

/-- One `log_unknown` output event: the opcode and the address it was fetched from (60_exceptions.md R204). -/
structure LogEntry where
  opcode : Word
  address : Word
  deriving DecidableEq, Repr

/-- One event of the total order of 60_exceptions.md R216: the event ports and the level-input changes of
10_state.md R38, and the host's reads of the outputs. -/
inductive Event where
  /-- `exec`: perform one execution pass (30_encoding.md R96). -/
  | exec
  /-- `tick60`: one 60 Hz timer tick (60_exceptions.md R210). -/
  | tick60
  /-- `terminate`: stop the core for good (60_exceptions.md R212). -/
  | terminate
  /-- `soft_reset` (70_reset_and_hazards.md R241). -/
  | softReset
  /-- `load` of a ROM image (70_reset_and_hazards.md R242). -/
  | load (img : List Byte)
  /-- `cold_reset`: power-on reset (70_reset_and_hazards.md R240). -/
  | coldReset
  /-- The host drives `pause` (60_exceptions.md R211). -/
  | setPause (level : Bool)
  /-- The host drives the keypad (60_exceptions.md R214). -/
  | setKeys (level : BitVec 16)
  /-- The host drives `quirk_load_store` (60_exceptions.md R215). -/
  | setQuirkLoadStore (level : Bool)
  /-- The host drives `quirk_shift` (60_exceptions.md R215). -/
  | setQuirkShift (level : Bool)
  /-- The host drives `vwrap` (60_exceptions.md R215). -/
  | setVwrap (level : Bool)
  /-- The host reads the outputs (60_exceptions.md R216); nothing changes. -/
  | sampleOutputs
  deriving DecidableEq, Repr

/-- The state of the modelled machine. -/
structure State where
  /-- V0 to VF (10_state.md R20). -/
  v : Vector Byte 16
  /-- I (10_state.md R22). -/
  i : Word
  /-- PC: between steps the address of the next instruction (10_state.md R23). -/
  pc : Word
  /-- The call stack's 16 entries (10_state.md R24). -/
  stack : Vector Word 16
  /-- `sp`, the entries in use, 0 to 16 (10_state.md R24). -/
  sp : Fin 17
  /-- `delay_timer` (10_state.md R25). -/
  dt : Byte
  /-- `sound_timer` (10_state.md R25). -/
  st : Byte
  /-- The memory (10_state.md R35). -/
  mem : Memory
  /-- The framebuffer (10_state.md R28). -/
  fb : Frame
  /-- `awaiting_key` (10_state.md R27). -/
  awaitingKey : Bool
  /-- `key_dest` (10_state.md R27). -/
  keyDest : RegId
  /-- `key_prev` (10_state.md R27). -/
  keyPrev : BitVec 16
  /-- `terminated`, sticky (10_state.md R31). -/
  terminated : Bool
  /-- The `fault` register (10_state.md R31). -/
  fault : FaultCode
  /-- Input `keys`, bit `k` is key `k` (10_state.md R26). -/
  keys : BitVec 16
  /-- Input `pause` (10_state.md R32). -/
  pause : Bool
  /-- Input `quirk_load_store` (10_state.md R29). -/
  quirkLoadStore : Bool
  /-- Input `quirk_shift` (10_state.md R29). -/
  quirkShift : Bool
  /-- Input `vwrap` (10_state.md R30). -/
  vwrap : Bool
  /-- The host's `rom_image`; `rom_len` is its length (10_state.md R36). -/
  romImage : List Byte
  /-- The model's own: how many random draws have been made (log 6, log 11). -/
  rndCount : Nat
  /-- The model's own: the `log_unknown` events emitted, newest first (log 10, log 11). -/
  logOut : List LogEntry
  /-- The model's own: the coming events, the next one first; when empty, `exec` (log 2, log 11). -/
  script : List Event
  deriving DecidableEq, Repr

/-- What a step or a meaning answers. -/
abbrev Result := Host.Outcome State Fault Refusal

/-- The machine after cold reset (10_state.md R37, 70_reset_and_hazards.md R240). The five input levels, which no
reset drives, and the model's own three fields have the values that log 7 and log 11 name. -/
def State.reset : State where
  v := Vector.replicate 16 0
  i := 0
  pc := 0x200
  stack := Vector.replicate 16 0
  sp := 0
  dt := 0
  st := 0
  mem := []
  fb := blankFrame
  awaitingKey := false
  keyDest := 0
  keyPrev := 0
  terminated := false
  fault := .none
  keys := 0
  pause := false
  quirkLoadStore := false
  quirkShift := false
  vwrap := true
  romImage := []
  rndCount := 0
  logOut := []
  script := []

end Sys2Proof.Machine
end

