-- ==== Sys2Proof/Machine/Ops.lean ====
section
/-! DEFINITION. The named operations the meanings are written over: registers, memory through I, the call stack,
entering a fatal fault, the fetch, the log, the key wait. -/

namespace Sys2Proof.Machine

/-- `V[x]`: read a general register (00_scope.md R6). -/
def State.getV (s : State) (x : RegId) : Byte := s.v[x.val]

/-- `V[x] <- b` (00_scope.md R6). -/
def State.setV (s : State) (x : RegId) (b : Byte) : State := { s with v := s.v.set x.val b }

/-- `I <- w` (10_state.md R22). -/
def State.setI (s : State) (w : Word) : State := { s with i := w }

/-- `pc <- w` (00_scope.md R6). -/
def State.setPc (s : State) (w : Word) : State := { s with pc := w }

/-- Replace the memory's contents. -/
def State.setMem (s : State) (m : Memory) : State := { s with mem := m }

/-- Replace the framebuffer's contents. -/
def State.setFb (s : State) (f : Frame) : State := { s with fb := f }

/-- `DT <- b` (10_state.md R25). -/
def State.setDt (s : State) (b : Byte) : State := { s with dt := b }

/-- `ST <- b` (10_state.md R25). -/
def State.setSt (s : State) (b : Byte) : State := { s with st := b }

/-- FAULT ENTRY, shared by every fatal fault (60_exceptions.md R205): `terminated` is set, the code is recorded, and
nothing else changes; pc keeps the value it had (R206). There is no handler, so there is no return (R208). -/
def State.raise (s : State) (r : Raise) : State := { s with terminated := true, fault := raiseCode r }

/-- Finish an instruction that may raise: a raise in state `s` is entered from `s`, so the instruction has
changed nothing (60_exceptions.md R206). -/
def State.orRaise {α : Type} (s : State) (e : Except Raise α) (k : α → State) : Result :=
  match e with
  | .ok a => .next (k a)
  | .error r => .next (s.raise r)

/-- Push the pc, which already is the fetch address plus 2, or StackOverflow at depth 16
(41_control_flow.md R141). -/
def State.push (s : State) : Except Raise State :=
  if h : s.sp.val < 16 then
    .ok { s with stack := s.stack.set s.sp.val s.pc, sp := ⟨s.sp.val + 1, by omega⟩ }
  else .error (.stackOverflow (s.pc - 2))

/-- Pop the return address, leaving the popped entry in place, or StackUnderflow at depth 0
(41_control_flow.md R142, 92_eei_decisions.md D36). -/
def State.pop (s : State) : Except Raise (Word × State) :=
  if h : 0 < s.sp.val then
    .ok (s.stack[s.sp.val - 1], { s with sp := ⟨s.sp.val - 1, by omega⟩ })
  else .error (.stackUnderflow (s.pc - 2))

/-- A skip: the already advanced pc moves 2 further when the condition holds (42_skips.md R156). -/
def State.skipIf (s : State) (c : Bool) : State := bif c then s.setPc (s.pc + 2) else s

/-- `pc <- (a + 2) mod 65536`, the default advance (30_encoding.md R96). -/
def State.advance (s : State) : State := s.setPc (s.pc + 2)

/-- `MemRead(pc, 2)`, big-endian, or MemoryFault (20_memory.md R63, R64). -/
def State.fetch (s : State) : Except Raise Word :=
  if InRange s.pc.toNat 2 then .ok (wordOfBytes (s.mem.read s.pc.toNat) (s.mem.read (s.pc.toNat + 1)))
  else .error (rangeFault s.pc.toNat)

/-- Emit a `log_unknown` event; nothing else (60_exceptions.md R204). -/
def State.logUnknown (s : State) (op addr : Word) : State := { s with logOut := ⟨op, addr⟩ :: s.logOut }

/-- Sample the random input: the free draw whose number the counter holds (10_state.md R33, log 6). -/
def State.rnd (s : State) : Byte := Config.rndDraw s.rndCount

/-- The next sample is another draw (log 6). -/
def State.countDraw (s : State) : State := { s with rndCount := s.rndCount + 1 }

/-- Arm the key wait for register `x` (45_timers_keys_random.md R184). -/
def State.armKeyWait (s : State) (x : RegId) : State :=
  { s with awaitingKey := true, keyDest := x, keyPrev := s.keys }

/-- The smallest set bit among the `n` bits from `j` on. -/
def lowestBitFrom (w : BitVec 16) : Nat → Nat → Option Nat
  | _, 0 => none
  | j, n + 1 => if w.getLsbD j then some j else lowestBitFrom w (j + 1) n

/-- The lowest-numbered set key (45_timers_keys_random.md R185, 92_eei_decisions.md D18). -/
def lowestKey (w : BitVec 16) : Option Nat := lowestBitFrom w 0 16

/-- The keys pressed now that were not at the last check (45_timers_keys_random.md R185). -/
def State.newlyPressed (s : State) : BitVec 16 := s.keys &&& ~~~s.keyPrev

/-- `KeyWaitPass(k)`: complete the wait with the lowest newly pressed key, or remember the keys
(45_timers_keys_random.md R185). -/
def State.keyWaitPass (s : State) : State :=
  match lowestKey s.newlyPressed with
  | some j => { s.setV s.keyDest (BitVec.ofNat 8 j) with awaitingKey := false }
  | none => { s with keyPrev := s.keys }

end Sys2Proof.Machine
end

