-- ==== Sys2Proof/Machine/Flags.lean ====
section
/-! DEFINITION. The flag computations: VF is the only flag (10_state.md R21), written last, all 8 bits, by the
flag-producing instructions (40_alu.md R132). -/

namespace Sys2Proof.Machine

/-- A flag as the byte VF receives: exactly 0x00 or 0x01 (10_state.md R21). -/
def flagByte (f : Bool) : Byte := bif f then 1 else 0

/-- Carry out of `a + b`: the exact sum exceeds 255 (40_alu.md R126). -/
def carryOut (a b : Byte) : Bool := decide (a.toNat + b.toNat > 255)

/-- No borrow in `a - b`: `a >= b` (40_alu.md R127, R129). -/
def noBorrow (a b : Byte) : Bool := decide (b.toNat ≤ a.toNat)

/-- The bit a right shift moves out, bit 0 of the source (40_alu.md R128). -/
def shiftedOutRight (src : Byte) : Bool := src.getLsbD 0

/-- The bit a left shift moves out, bit 7 of the source (40_alu.md R130). -/
def shiftedOutLeft (src : Byte) : Bool := src.getLsbD 7

/-- Write the flag to VF, replacing all 8 bits (40_alu.md R132 (c)). -/
def State.setFlag (s : State) (f : Bool) : State := s.setV RegId.vf (flagByte f)

/-- The result to `V[x]`, then the flag to VF: with `x` = 15 the flag wins (40_alu.md R132 (c)). -/
def State.setResultFlag (s : State) (x : RegId) (b : Byte) (f : Bool) : State := (s.setV x b).setFlag f

end Sys2Proof.Machine
end

