-- ==== Sys2Proof/Machine/Operands.lean ====
section
/-! DEFINITION. The operand forms: what an instruction's fields and implicit operands stand for. -/

namespace Sys2Proof.Machine

/-- `zext_16(NNN)` (30_encoding.md R93). -/
def addrOf (nnn : BitVec 12) : Word := nnn.setWidth 16

/-- `zext_16(b)` of a register value (44_index_memory.md R171, 41_control_flow.md R143). -/
def wide (b : Byte) : Word := b.setWidth 16

/-- The source of a shift: Vx when the shift quirk is enabled, else Vy (40_alu.md R128, R130). -/
def State.shiftSource (s : State) (x y : RegId) : Byte := bif s.quirkShift then s.getV x else s.getV y

/-- `V[X][3:0]`, a key or digit number: the low nibble (42_skips.md R154, 44_index_memory.md R172). -/
def lowNibble (b : Byte) : Nat := b.toNat % 16

/-- The level of the key that Vx names (42_skips.md R154, R155). -/
def State.keyDown (s : State) (x : RegId) : Bool := s.keys.getLsbD (lowNibble (s.getV x))

/-- `FONT_BASE + 5 * digit` (44_index_memory.md R172). -/
def glyphAddr (digit : Nat) : Word := BitVec.ofNat 16 (fontBase + 5 * digit)

/-- The three decimal digits of a byte, hundreds first (44_index_memory.md R173). -/
def bcdDigits (b : Byte) : List Byte := [b / 100, (b / 10) % 10, b % 10]

/-- V0 to VX, the bytes a register dump stores (44_index_memory.md R174). -/
def State.dumpBytes (s : State) (x : RegId) : List Byte := s.v.toList.take (x.val + 1)

/-- Put bytes into the registers from number `k` up (44_index_memory.md R175). -/
def fillRegs : Vector Byte 16 → Nat → List Byte → Vector Byte 16
  | v, _, [] => v
  | v, k, b :: bs => fillRegs (v.setIfInBounds k b) (k + 1) bs

/-- V0 upward receive the loaded bytes (44_index_memory.md R175). -/
def State.loadRegs (s : State) (bs : List Byte) : State := { s with v := fillRegs s.v 0 bs }

/-- The quirk multiplexer for I: the old I when `quirk_load_store` is 1, else I + X + 1 (44_index_memory.md R176). -/
def State.indexAfter (s : State) (x : RegId) : Word :=
  bif s.quirkLoadStore then s.i else s.i + BitVec.ofNat 16 (x.val + 1)

end Sys2Proof.Machine
end

