-- ==== Sys2Proof/Machine/Alu.lean ====
section
/-! DEFINITION. Register, arithmetic, logic and shift instructions (40_alu.md). Operands are read before any write
(R132). None accesses memory and none can fault. -/

namespace Sys2Proof.Machine

/-- `LD Vx, NN` (R120). -/
def execLdVxNn (x : RegId) (nn : Byte) (s : State) : Result := .next (s.setV x nn)

/-- `ADD Vx, NN`: modulo 256, no flag (R121). -/
def execAddVxNn (x : RegId) (nn : Byte) (s : State) : Result := .next (s.setV x (s.getV x + nn))

/-- `LD Vx, Vy` (R122). -/
def execLdVxVy (x y : RegId) (s : State) : Result := .next (s.setV x (s.getV y))

/-- `OR Vx, Vy`: no flag (R123). -/
def execOrVxVy (x y : RegId) (s : State) : Result := .next (s.setV x (s.getV x ||| s.getV y))

/-- `AND Vx, Vy`: no flag (R124). -/
def execAndVxVy (x y : RegId) (s : State) : Result := .next (s.setV x (s.getV x &&& s.getV y))

/-- `XOR Vx, Vy`: no flag (R125). -/
def execXorVxVy (x y : RegId) (s : State) : Result := .next (s.setV x (s.getV x ^^^ s.getV y))

/-- `ADD Vx, Vy`: VF is the carry (R126). -/
def execAddVxVy (x y : RegId) (s : State) : Result :=
  .next (s.setResultFlag x (s.getV x + s.getV y) (carryOut (s.getV x) (s.getV y)))

/-- `SUB Vx, Vy`: VF is no-borrow of Vx - Vy (R127). -/
def execSubVxVy (x y : RegId) (s : State) : Result :=
  .next (s.setResultFlag x (s.getV x - s.getV y) (noBorrow (s.getV x) (s.getV y)))

/-- `SUBN Vx, Vy`: VF is no-borrow of Vy - Vx (R129). -/
def execSubnVxVy (x y : RegId) (s : State) : Result :=
  .next (s.setResultFlag x (s.getV y - s.getV x) (noBorrow (s.getV y) (s.getV x)))

/-- `SHR Vx, Vy`: VF is bit 0 of the source (R128). -/
def execShrVxVy (x y : RegId) (s : State) : Result :=
  .next (s.setResultFlag x (s.shiftSource x y >>> 1) (shiftedOutRight (s.shiftSource x y)))

/-- `SHL Vx, Vy`: VF is bit 7 of the source (R130). -/
def execShlVxVy (x y : RegId) (s : State) : Result :=
  .next (s.setResultFlag x (s.shiftSource x y <<< 1) (shiftedOutLeft (s.shiftSource x y)))

end Sys2Proof.Machine
end

