-- ==== Sys2Proof/Machine/Control.lean ====
section
/-! DEFINITION. Control transfer (41_control_flow.md). The pc already is the fetch address plus 2 (00_scope.md R7); a
target outside memory is detected at the next fetch (R145). -/

namespace Sys2Proof.Machine

/-- `JP NNN` (R140). -/
def execJpNnn (nnn : BitVec 12) (s : State) : Result := .next (s.setPc (addrOf nnn))

/-- `CALL NNN`: push the pc and jump, or StackOverflow (R141). -/
def execCallNnn (nnn : BitVec 12) (s : State) : Result := s.orRaise s.push (fun t => t.setPc (addrOf nnn))

/-- `RET`: pop into the pc, or StackUnderflow (R142). -/
def execRet (s : State) : Result := s.orRaise s.pop (fun p => p.2.setPc p.1)

/-- `JP V0, NNN`: always V0 (R143). -/
def execJpV0Nnn (nnn : BitVec 12) (s : State) : Result := .next (s.setPc (addrOf nnn + wide (s.getV 0)))

end Sys2Proof.Machine
end

