-- ==== Sys2Proof/Machine/Display.lean ====
section
/-! DEFINITION. Framebuffer instructions (43_draw.md). -/

namespace Sys2Proof.Machine

/-- `CLS` (R160). -/
def execCls (s : State) : Result := .next (s.setFb blankFrame)

/-- The drawing of `rows` at the position that Vx and Vy hold, reduced modulo the screen size, from a clear `hit`
(R161). -/
def State.draw (s : State) (x y : RegId) (rows : List Byte) : Drawing :=
  drawRows (wrapX s.vwrap) (wrapY s.vwrap) ((s.getV x).toNat % 64) ((s.getV y).toNat % 32) rows ⟨s.fb, false⟩

/-- `DRW Vx, Vy, N`: all rows are read first; the framebuffer, then VF last (R161). -/
def execDrwVxVyN (x y : RegId) (n : Fin 16) (s : State) : Result :=
  s.orRaise (s.mem.load s.i.toNat n) fun rows =>
    (s.setFb (s.draw x y rows).frame).setFlag (s.draw x y rows).hit

end Sys2Proof.Machine
end

