-- ==== Sys2Proof/Machine/IndexMemory.lean ====
section
/-! DEFINITION. Index register and memory instructions (44_index_memory.md). The only addressing mode is I plus a small
constant (20_memory.md R75). -/

namespace Sys2Proof.Machine

/-- `LD I, NNN` (R170). -/
def execLdINnn (nnn : BitVec 12) (s : State) : Result := .next (s.setI (addrOf nnn))

/-- `ADD I, Vx`: modulo 65536, no flag, no fault (R171). -/
def execAddIVx (x : RegId) (s : State) : Result := .next (s.setI (s.i + wide (s.getV x)))

/-- `LD F, Vx`: the address of the glyph of Vx's low nibble (R172). -/
def execLdFVx (x : RegId) (s : State) : Result := .next (s.setI (glyphAddr (lowNibble (s.getV x))))

/-- `LD B, Vx`: three digits at I, I unchanged (R173). -/
def execLdBVx (x : RegId) (s : State) : Result :=
  s.orRaise (s.mem.store s.i.toNat (bcdDigits (s.getV x))) fun m => s.setMem m

/-- `LD [I], Vx`: V0 to VX stored at I upward, then I by the multiplexer (R174, R176). -/
def execLdMemVx (x : RegId) (s : State) : Result :=
  s.orRaise (s.mem.store s.i.toNat (s.dumpBytes x)) fun m => (s.setMem m).setI (s.indexAfter x)

/-- `LD Vx, [I]`: V0 to VX loaded from I upward, then I by the multiplexer (R175, R176). -/
def execLdVxMem (x : RegId) (s : State) : Result :=
  s.orRaise (s.mem.load s.i.toNat (x.val + 1)) fun bs => (s.loadRegs bs).setI (s.indexAfter x)

end Sys2Proof.Machine
end

