-- ==== Sys2Proof/Machine/Skips.lean ====
section
/-! DEFINITION. The six conditional skips (42_skips.md). They change the pc and nothing else. -/

namespace Sys2Proof.Machine

/-- `SE Vx, NN` (R150). -/
def execSeVxNn (x : RegId) (nn : Byte) (s : State) : Result := .next (s.skipIf (s.getV x == nn))

/-- `SNE Vx, NN` (R151). -/
def execSneVxNn (x : RegId) (nn : Byte) (s : State) : Result := .next (s.skipIf (s.getV x != nn))

/-- `SE Vx, Vy` (R152). -/
def execSeVxVy (x y : RegId) (s : State) : Result := .next (s.skipIf (s.getV x == s.getV y))

/-- `SNE Vx, Vy` (R153). -/
def execSneVxVy (x y : RegId) (s : State) : Result := .next (s.skipIf (s.getV x != s.getV y))

/-- `SKP Vx`: skip if the key is down (R154). -/
def execSkpVx (x : RegId) (s : State) : Result := .next (s.skipIf (s.keyDown x))

/-- `SKNP Vx`: skip if the key is up (R155). -/
def execSknpVx (x : RegId) (s : State) : Result := .next (s.skipIf (!s.keyDown x))

end Sys2Proof.Machine
end

