-- ==== Sys2Proof/Machine/TimersKeys.lean ====
section
/-! DEFINITION. Random, timer and key-wait instructions (45_timers_keys_random.md). None accesses memory, none faults. -/

namespace Sys2Proof.Machine

/-- `RND Vx, NN`: a free draw ANDed with NN (R180). -/
def execRndVxNn (x : RegId) (nn : Byte) (s : State) : Result := .next (s.setV x (s.rnd &&& nn)).countDraw

/-- `LD Vx, DT` (R181). -/
def execLdVxDt (x : RegId) (s : State) : Result := .next (s.setV x s.dt)

/-- `LD DT, Vx` (R182). -/
def execLdDtVx (x : RegId) (s : State) : Result := .next (s.setDt (s.getV x))

/-- `LD ST, Vx` (R183). -/
def execLdStVx (x : RegId) (s : State) : Result := .next (s.setSt (s.getV x))

/-- `LD Vx, K`: arms the wait only; Vx is written by the completing key-wait pass (R184). -/
def execLdVxK (x : RegId) (s : State) : Result := .next (s.armKeyWait x)

end Sys2Proof.Machine
end

