-- ==== Sys2Proof/Machine/Events.lean ====
section
/-! DEFINITION. The external events other than `exec` (60_exceptions.md R210 to R216,
70_reset_and_hazards.md R240 to R242), and how a host orders them. -/

namespace Sys2Proof.Machine

/-- One timer's share of a tick: down by 1, never below 0 (60_exceptions.md R210). -/
def countDown (b : Byte) : Byte := if b = 0 then 0 else b - 1

/-- `tick60`: both timers, unless terminated; performed while paused and while awaiting a key (60_exceptions.md R210). -/
def State.tick (s : State) : State :=
  bif s.terminated then s else { s with dt := countDown s.dt, st := countDown s.st }

/-- `terminate`: sets `terminated`, leaves `fault` (60_exceptions.md R212). -/
def State.terminate (s : State) : State := { s with terminated := true }

/-- `CoreClear()` (70_reset_and_hazards.md R241). -/
def State.coreClear (s : State) : State :=
  { s with
    v := Vector.replicate 16 0, i := 0, pc := 0x200, sp := 0, stack := Vector.replicate 16 0,
    dt := 0, st := 0, fb := blankFrame, awaitingKey := false, keyDest := 0, keyPrev := 0 }

/-- The memory part of `SoftReset()`: clear the program region, restore the font, reload the ROM
(70_reset_and_hazards.md R241). -/
def softResetMemory (m : Memory) (rom : List Byte) : Memory :=
  m.clearProgram.restoreFont.writeAll 0x200 rom

/-- `SoftReset()`, ignored when terminated (70_reset_and_hazards.md R241). -/
def State.softReset (s : State) : State :=
  bif s.terminated then s else { s.coreClear with mem := softResetMemory s.mem s.romImage }

/-- `Load(img, n)`: an oversized image is no event for the core; otherwise the image is kept and a soft reset follows
(70_reset_and_hazards.md R242). -/
def State.loadRom (s : State) (img : List Byte) : State :=
  bif !wfRom img || s.terminated then s else { s with romImage := img }.softReset

/-- `ColdReset()`: the only event that clears `terminated` and `fault` (70_reset_and_hazards.md R240). The inputs
are not reset (10_state.md R37), nor are the model's own fields (log 11). -/
def State.coldReset (s : State) : State :=
  { s.coreClear with terminated := false, fault := .none, romImage := [], mem := [] }

/-- The effect of an event that is not `exec`; `exec` is `execPass` in Pass.lean and is here without effect. The
level inputs follow the host in every run state (log 14). -/
def State.hostEvent (s : State) : Event → State
  | .exec => s
  | .tick60 => s.tick
  | .terminate => s.terminate
  | .softReset => s.softReset
  | .load img => s.loadRom img
  | .coldReset => s.coldReset
  | .setPause b => { s with pause := b }
  | .setKeys k => { s with keys := k }
  | .setQuirkLoadStore b => { s with quirkLoadStore := b }
  | .setQuirkShift b => { s with quirkShift := b }
  | .setVwrap b => { s with vwrap := b }
  | .sampleOutputs => s

/-- The place of an event among those driven in the same instant (60_exceptions.md R216). -/
def eventRank : Event → Nat
  | .coldReset => 0
  | .terminate => 1
  | .load _ => 2
  | .softReset => 3
  | .setPause _ | .setKeys _ | .setQuirkLoadStore _ | .setQuirkShift _ | .setVwrap _ => 4
  | .exec => 5
  | .tick60 => 6
  | .sampleOutputs => 7

/-- Put an event before the first one of a later or the same rank. -/
def insertEvent (e : Event) : List Event → List Event
  | [] => [e]
  | f :: es => if eventRank e ≤ eventRank f then e :: f :: es else f :: insertEvent e es

/-- The total order of events driven in the same instant (60_exceptions.md R216, log 3). -/
def arrange : List Event → List Event
  | [] => []
  | e :: es => insertEvent e (arrange es)

/-- The host drives these ports in the same instant, after everything already scripted. -/
def State.drive (s : State) (es : List Event) : State := { s with script := s.script ++ arrange es }

/-- One period of the source's schedule: IPT `exec` events, one `tick60`, then the host's events
(60_exceptions.md R217). IPT is the argument; `Config.defaultIpt` is the source's default. -/
def schedulePeriod (ipt : Nat) (host : List Event) : List Event :=
  List.replicate ipt .exec ++ [.tick60] ++ host

end Sys2Proof.Machine
end

