-- ==== Sys2Proof/Machine/Pass.lean ====
section
/-! DEFINITION. One execution pass (30_encoding.md R96) and the delivery of one event. -/

namespace Sys2Proof.Machine

/-- After the advance: dispatch on the word, or log it and change nothing else (30_encoding.md R96,
41_control_flow.md R144). `a` is the fetch address. -/
def runWord (op a : Word) (s : State) : Result :=
  match decodeWord op with
  | some i => exec i s
  | none => .next (s.logUnknown op a)

/-- `ExecutePass()`, with its order of checks (30_encoding.md R96, 60_exceptions.md R207). The quirks, `vwrap` and
`keys` are inputs that no pass changes, so their fields are the values sampled at its start (R97, log 12). -/
def execPass (s : State) : Result :=
  if s.terminated then .next s
  else if s.pause then .next s
  else if s.awaitingKey then .next s.keyWaitPass
  else match s.fetch with
    | .error r => .next (s.raise r)
    | .ok op => runWord op s.pc s.advance

/-- Perform one event of the total order (60_exceptions.md R216). -/
def deliver (e : Event) (s : State) : Result :=
  match e with
  | .exec => execPass s
  | e => .next (s.hostEvent e)

end Sys2Proof.Machine
end

