-- ==== Sys2Proof/Machine/Step.lean ====
section
/-! DEFINITION. One step: the next event of the script, or an execution pass when nothing is scripted
(60_exceptions.md R216, log 2). -/

namespace Sys2Proof.Machine

/-- One event, atomic. -/
def step (s : State) : Host.Outcome State Fault Refusal :=
  match s.script with
  | [] => execPass s
  | e :: rest => deliver e { s with script := rest }

/-- The script with `exec` as its next event. -/
def execNext (es : List Event) : List Event :=
  match es with
  | [] => []
  | .exec :: rest => .exec :: rest
  | e :: rest => .exec :: e :: rest

/-- `s` with the instruction of the table word `w` where the next step fetches it: the core is running, the next
event is `exec`, the pc is in memory, and the word's bytes stand there, the high byte first (log 17). -/
def State.withFetchWord (s : State) (nbits w : Nat) : State :=
  let op : Word := BitVec.ofNat 16 (w % 2 ^ nbits)
  let pc : Word := if InRange s.pc.toNat 2 then s.pc else 0x200
  { s with
    pc := pc
    mem := s.mem.writeAll pc.toNat [hiByte op, loByte op]
    terminated := false
    fault := .none
    pause := false
    awaitingKey := false
    script := execNext s.script }

end Sys2Proof.Machine
end

