-- ==== Sys2Proof/Machine/Outputs.lean ====
section
/-! DEFINITION. The outputs, functions of the state between passes (10_state.md R34, R38). -/

namespace Sys2Proof.Machine

/-- The four controller states (10_state.md R31). -/
inductive RunState where
  | running
  | paused
  | awaitingKey
  | terminated
  deriving DecidableEq, Repr

/-- `run_state`, the view by priority (10_state.md R31, 60_exceptions.md R225). -/
def State.runState (s : State) : RunState :=
  if s.terminated then .terminated
  else if s.pause then .paused
  else if s.awaitingKey then .awaitingKey
  else .running

/-- `sound_active`: 1 exactly when ST > 0 (10_state.md R34). -/
def State.soundActive (s : State) : Bool := s.st != 0

/-- `fault_out`: the 3-bit fault code (10_state.md R34). -/
def State.faultOut (s : State) : BitVec 3 := faultBits s.fault

/-- Pixel `fb[y][x]` of the state (10_state.md R28). -/
def State.pixel (s : State) (x : Fin 64) (y : Fin 32) : Bool := framePixel s.fb x y

/-- Element `k` of `fb_out`: pixel (x, y) is element `y*64 + x` (43_draw.md R163). -/
def State.fbOut (s : State) (k : Fin 2048) : Bool := s.pixel ⟨k % 64, by omega⟩ ⟨k / 64, by omega⟩

end Sys2Proof.Machine
end

