-- ==== Sys2Proof/Safety.lean ====
section
/-! DEFINITION. What counts as a safe run, the machine's invariant, and the frame terms that claims use. -/

namespace Sys2Proof.Machine

/-- A fatally faulted machine (60_exceptions.md R205): never the final state of a successful run. -/
def State.faulted (s : State) : Prop := s.terminated = true ∧ s.fault ≠ .none

/-- A machine that ended by request, not by error (60_exceptions.md R212, 70_reset_and_hazards.md R249 (b)). -/
def State.endedByRequest (s : State) : Prop := s.terminated = true ∧ s.fault = .none

/-- A run of `k` steps is safe when no state on the way is faulted. -/
def safeRun : Nat → State → Prop
  | 0, s => ¬ s.faulted
  | k + 1, s => ¬ s.faulted ∧ ∀ t, step s = .next t → safeRun k t

/-- `k` steps in a row lead from `s` to `t`. -/
def runsTo : Nat → State → State → Prop
  | 0, s, t => t = s
  | k + 1, s, t => ∃ u, step s = .next u ∧ runsTo k u t

/-- The machine's invariant: the memory keeps its canonical form, with every cell inside 0x000 to 0xFFF
(20_memory.md R60); `fault` is written only together with `terminated` (10_state.md R31); the kept ROM image fits
(10_state.md R36). The bounds of 10_state.md R41 are in the fields' types. -/
structure State.Inv (s : State) : Prop where
  memory : s.mem.wf
  faultOnlyTerminated : s.fault ≠ .none → s.terminated = true
  romFits : wfRom s.romImage = true

/-- The parts of the state that a frame speaks of. -/
inductive Part where
  | v | i | pc | callStack | dt | st | memory | framebuffer | keyWait | terminated | fault | inputs | rom
  | draws | logOut | script
  deriving DecidableEq, Repr

/-- A part is the same in two states; memory is compared by what every address reads as. -/
def Part.same : Part → State → State → Prop
  | .v, s, t => t.v = s.v
  | .i, s, t => t.i = s.i
  | .pc, s, t => t.pc = s.pc
  | .callStack, s, t => t.stack = s.stack ∧ t.sp = s.sp
  | .dt, s, t => t.dt = s.dt
  | .st, s, t => t.st = s.st
  | .memory, s, t => ∀ a, t.mem.read a = s.mem.read a
  | .framebuffer, s, t => t.fb = s.fb
  | .keyWait, s, t => t.awaitingKey = s.awaitingKey ∧ t.keyDest = s.keyDest ∧ t.keyPrev = s.keyPrev
  | .terminated, s, t => t.terminated = s.terminated
  | .fault, s, t => t.fault = s.fault
  | .inputs, s, t => t.keys = s.keys ∧ t.pause = s.pause ∧ t.quirkLoadStore = s.quirkLoadStore ∧
      t.quirkShift = s.quirkShift ∧ t.vwrap = s.vwrap
  | .rom, s, t => t.romImage = s.romImage
  | .draws, s, t => t.rndCount = s.rndCount
  | .logOut, s, t => t.logOut = s.logOut
  | .script, s, t => t.script = s.script

/-- THE FRAME: from `s` to `t` every part of the state outside `ps` is unchanged. -/
def OnlyChanges (ps : List Part) (s t : State) : Prop := ∀ p, p ∉ ps → p.same s t

/-- `o` answers a next state in which `V[x]` is `b`, every other V register is unchanged, and nothing else changed. -/
def WritesV (o : Result) (s : State) (x : RegId) (b : Byte) : Prop :=
  ∃ t, o = .next t ∧ t.getV x = b ∧ (∀ r, r ≠ x → t.getV r = s.getV r) ∧ OnlyChanges [.v] s t

/-- `o` answers a next state in which VF is the flag, exactly 0x00 or 0x01, `V[x]` is `b` unless `x` is 15 (then the
flag wins), every other V register is unchanged, and nothing else changed (40_alu.md R132). -/
def WritesVAndFlag (o : Result) (s : State) (x : RegId) (b : Byte) (flag : Prop) : Prop :=
  ∃ t, o = .next t ∧ (flag → t.getV 15 = 1) ∧ (¬ flag → t.getV 15 = 0) ∧ (x ≠ 15 → t.getV x = b) ∧
    (∀ r, r ≠ x → r ≠ 15 → t.getV r = s.getV r) ∧ OnlyChanges [.v] s t

/-- `o` answers a next state whose pc is `w`, and nothing else changed. -/
def JumpsTo (o : Result) (s : State) (w : Word) : Prop :=
  ∃ t, o = .next t ∧ t.pc = w ∧ OnlyChanges [.pc] s t

/-- `o` is the skip of 42_skips.md R156: when `c` holds the pc moves 2 further, else it stays; nothing else changed. -/
def SkipsWhen (o : Result) (s : State) (c : Prop) : Prop :=
  ∃ t, o = .next t ∧ (c → t.pc = s.pc + 2) ∧ (¬ c → t.pc = s.pc) ∧ OnlyChanges [.pc] s t

/-- `o` is the entry of a fatal fault from `s`: terminated, the code recorded, nothing else changed
(60_exceptions.md R205). -/
def EntersFault (o : Result) (s : State) (c : FaultCode) : Prop :=
  ∃ t, o = .next t ∧ t.terminated = true ∧ t.fault = c ∧ OnlyChanges [.terminated, .fault] s t

/-- A coordinate `p` of a sprite pixel lands on `q` of a screen edge of `size` pixels: it is `q`, or it wraps to it
(43_draw.md R162). -/
def landsOn (size : Nat) (wrap : Bool) (p q : Nat) : Prop := p = q ∨ (wrap = true ∧ p % size = q)

/-- Some set bit of the N-row sprite at I, drawn at the position that Vx and Vy hold, falls on pixel (px, py)
(43_draw.md R161, R162). -/
def State.spriteCovers (s : State) (x y : RegId) (n : Fin 16) (px : Fin 64) (py : Fin 32) : Prop :=
  ∃ r c, r < n.val ∧ c < 8 ∧ (s.mem.read (s.i.toNat + r)).getLsbD (7 - c) = true ∧
    landsOn 32 s.vwrap ((s.getV y).toNat % 32 + r) py ∧ landsOn 64 s.vwrap ((s.getV x).toNat % 64 + c) px

/-- What the byte at address `a` is after `LD B, Vx` in `s`: a decimal digit of Vx at I, I+1 and I+2, else the old byte
(44_index_memory.md R173). -/
def State.byteAfterBcd (s : State) (x : RegId) (a : Nat) : Nat :=
  if a = s.i.toNat then (s.getV x).toNat / 100
  else if a = s.i.toNat + 1 then (s.getV x).toNat / 10 % 10
  else if a = s.i.toNat + 2 then (s.getV x).toNat % 10
  else (s.mem.read a).toNat

/-- What the byte at address `a` is after `LD [I], Vx` in `s`: register a - I for the addresses I to I+X, else the old
byte (44_index_memory.md R174). -/
def State.byteAfterDump (s : State) (x : RegId) (a : Nat) : Nat :=
  if s.i.toNat ≤ a ∧ a ≤ s.i.toNat + x.val then (s.getV (Fin.ofNat 16 (a - s.i.toNat))).toNat
  else (s.mem.read a).toNat

/-- Key `j` is pressed now and was not at the last check of the key wait (45_timers_keys_random.md R185). -/
def State.newlyDown (s : State) (j : Fin 16) : Prop := s.keys.getLsbD j = true ∧ s.keyPrev.getLsbD j = false

/-- The core performs instructions: not terminated, not paused, not awaiting a key (10_state.md R31). -/
def State.running (s : State) : Prop := s.terminated = false ∧ s.pause = false ∧ s.awaitingKey = false

/-- What `CoreClear()` leaves (70_reset_and_hazards.md R241). -/
def State.coreCleared (t : State) : Prop :=
  (∀ r, t.getV r = 0) ∧ t.i = 0 ∧ t.pc = 0x200 ∧ t.sp = 0 ∧ (∀ k, (h : k < 16) → t.stack[k] = 0) ∧
  t.dt = 0 ∧ t.st = 0 ∧ (∀ x y, t.pixel x y = false) ∧ t.awaitingKey = false ∧ t.keyDest = 0 ∧ t.keyPrev = 0

/-- What a soft reset leaves at an address of memory: the font table, the ROM image, zero in the rest of the program
region, and the old byte elsewhere in the reserved region (70_reset_and_hazards.md R241). -/
def softResetByte (old : Memory) (rom : List Byte) (a : Nat) : Byte :=
  if fontBase ≤ a ∧ a < fontBase + 80 then fontTable.getD (a - fontBase) 0
  else if a < 0x200 then old.read a
  else rom.getD (a - 0x200) 0

/-- The registers that an instruction names as its destination, or writes as its flag (10_state.md R21,
40_alu.md R132). -/
def mayWriteV : Instr → RegId → Bool
  | .cls, _ | .ret, _ | .jpNnn _, _ | .callNnn _, _ | .seVxNn _ _, _ | .sneVxNn _ _, _ | .seVxVy _ _, _
  | .sneVxVy _ _, _ | .ldINnn _, _ | .jpV0Nnn _, _ | .skpVx _, _ | .sknpVx _, _ | .ldVxK _, _ | .ldDtVx _, _
  | .ldStVx _, _ | .addIVx _, _ | .ldFVx _, _ | .ldBVx _, _ | .ldMemVx _, _ => false
  | .ldVxNn x _, r | .addVxNn x _, r | .ldVxVy x _, r | .orVxVy x _, r | .andVxVy x _, r | .xorVxVy x _, r
  | .rndVxNn x _, r | .ldVxDt x, r => r = x
  | .addVxVy x _, r | .subVxVy x _, r | .shrVxVy x _, r | .subnVxVy x _, r | .shlVxVy x _, r => r = x || r = 15
  | .drwVxVyN _ _ _, r => r = 15
  | .ldVxMem x, r => r ≤ x

/-- The explicit control-flow instructions (30_encoding.md R96). -/
def controlFlow : Instr → Bool
  | .jpNnn _ | .callNnn _ | .ret | .jpV0Nnn _ | .seVxNn _ _ | .sneVxNn _ _ | .seVxVy _ _ | .sneVxVy _ _
  | .skpVx _ | .sknpVx _ => true
  | .cls | .ldVxNn _ _ | .addVxNn _ _ | .ldVxVy _ _ | .orVxVy _ _ | .andVxVy _ _ | .xorVxVy _ _ | .addVxVy _ _
  | .subVxVy _ _ | .shrVxVy _ _ | .subnVxVy _ _ | .shlVxVy _ _ | .ldINnn _ | .rndVxNn _ _ | .drwVxVyN _ _ _
  | .ldVxDt _ | .ldVxK _ | .ldDtVx _ | .ldStVx _ | .addIVx _ | .ldFVx _ | .ldBVx _ | .ldMemVx _ | .ldVxMem _ => false

/-- Two states that agree on everything but the call stack's entries at and above `sp` (10_state.md R24). -/
def AgreeBelowSp (s s' : State) : Prop :=
  s'.sp = s.sp ∧ (∀ k, (h : k < 16) → k < s.sp.val → s'.stack[k] = s.stack[k]) ∧
  s'.mem = s.mem ∧ OnlyChanges [.callStack] s s'

end Sys2Proof.Machine
end

