-- ==== Sys2Proof/Certificates/Slice0/Obligations.lean ====
section
/-! DEFINITION. The statements for the provers. Frames are `OnlyChanges`: every part of the state outside the named
ones is unchanged, memory by what every address reads as. `exec` is applied to a state whose pc already is the fetch
address plus 2 (00_scope.md R7). -/

open Sys2Proof Sys2Proof.Machine

/-- Decode and encode agree, for every instruction with every operand value, whatever follows its two bytes
(30_encoding.md R91, R92, R94). -/
def Obligations.DecodingAnEncodedInstructionGivesItBack : Prop :=
  ∀ (i : Instr) (rest : List Byte), decode (encodeBytes i ++ rest) = .ok (i, rest)

/-- The other direction: a word that decodes is the encoding of what it decodes to, so no bit of it is dropped
(30_encoding.md R94). -/
def Obligations.EncodingADecodedWordGivesItBack : Prop :=
  ∀ (op : Word) (i : Instr), decodeWord op = some i → encode i = op

/-- The UnknownOpcode words are exactly those that 30_encoding.md R95 lists. That `0NNN` is unknown is the spec's decision
D7; that `5XYn` and `9XYn` with n not 0, and the unlisted `8XYn`, `EXnn` and `FXnn`, are unknown is its decision D6; the
model follows them (log 9). -/
def Obligations.UnknownWordsAreExactlyTheListedOnes : Prop :=
  ∀ op : Word, decodeWord op = none ↔
    (fieldC op = 0 ∧ op ≠ 0x00E0 ∧ op ≠ 0x00EE) ∨
    ((fieldC op = 5 ∨ fieldC op = 9) ∧ fieldN op ≠ 0) ∨
    (fieldC op = 8 ∧ (8 ≤ fieldN op ∧ fieldN op ≠ 0xE)) ∨
    (fieldC op = 0xE ∧ fieldNN op ≠ 0x9E ∧ fieldNN op ≠ 0xA1) ∨
    (fieldC op = 0xF ∧ fieldNN op ∉ [0x07, 0x0A, 0x15, 0x18, 0x1E, 0x29, 0x33, 0x55, 0x65])

/-- The pattern of every row of the opcode map, as a number: class nibble, then X, Y, N or NN or NNN, each in its
place (30_encoding.md R91, R94). -/
def Obligations.EveryInstructionHasItsTablePattern : Prop :=
  (encode .cls).toNat = 0x00E0 ∧ (encode .ret).toNat = 0x00EE ∧
  (∀ nnn : BitVec 12,
    (encode (.jpNnn nnn)).toNat = 0x1000 + nnn.toNat ∧ (encode (.callNnn nnn)).toNat = 0x2000 + nnn.toNat ∧
    (encode (.ldINnn nnn)).toNat = 0xA000 + nnn.toNat ∧ (encode (.jpV0Nnn nnn)).toNat = 0xB000 + nnn.toNat) ∧
  (∀ (x : RegId) (nn : Byte),
    (encode (.seVxNn x nn)).toNat = 0x3000 + 256 * x.val + nn.toNat ∧
    (encode (.sneVxNn x nn)).toNat = 0x4000 + 256 * x.val + nn.toNat ∧
    (encode (.ldVxNn x nn)).toNat = 0x6000 + 256 * x.val + nn.toNat ∧
    (encode (.addVxNn x nn)).toNat = 0x7000 + 256 * x.val + nn.toNat ∧
    (encode (.rndVxNn x nn)).toNat = 0xC000 + 256 * x.val + nn.toNat) ∧
  (∀ x y : RegId,
    (encode (.seVxVy x y)).toNat = 0x5000 + 256 * x.val + 16 * y.val ∧
    (encode (.ldVxVy x y)).toNat = 0x8000 + 256 * x.val + 16 * y.val ∧
    (encode (.orVxVy x y)).toNat = 0x8001 + 256 * x.val + 16 * y.val ∧
    (encode (.andVxVy x y)).toNat = 0x8002 + 256 * x.val + 16 * y.val ∧
    (encode (.xorVxVy x y)).toNat = 0x8003 + 256 * x.val + 16 * y.val ∧
    (encode (.addVxVy x y)).toNat = 0x8004 + 256 * x.val + 16 * y.val ∧
    (encode (.subVxVy x y)).toNat = 0x8005 + 256 * x.val + 16 * y.val ∧
    (encode (.shrVxVy x y)).toNat = 0x8006 + 256 * x.val + 16 * y.val ∧
    (encode (.subnVxVy x y)).toNat = 0x8007 + 256 * x.val + 16 * y.val ∧
    (encode (.shlVxVy x y)).toNat = 0x800E + 256 * x.val + 16 * y.val ∧
    (encode (.sneVxVy x y)).toNat = 0x9000 + 256 * x.val + 16 * y.val ∧
    (∀ n : Fin 16, (encode (.drwVxVyN x y n)).toNat = 0xD000 + 256 * x.val + 16 * y.val + n.val)) ∧
  (∀ x : RegId,
    (encode (.skpVx x)).toNat = 0xE09E + 256 * x.val ∧ (encode (.sknpVx x)).toNat = 0xE0A1 + 256 * x.val ∧
    (encode (.ldVxDt x)).toNat = 0xF007 + 256 * x.val ∧ (encode (.ldVxK x)).toNat = 0xF00A + 256 * x.val ∧
    (encode (.ldDtVx x)).toNat = 0xF015 + 256 * x.val ∧ (encode (.ldStVx x)).toNat = 0xF018 + 256 * x.val ∧
    (encode (.addIVx x)).toNat = 0xF01E + 256 * x.val ∧ (encode (.ldFVx x)).toNat = 0xF029 + 256 * x.val ∧
    (encode (.ldBVx x)).toNat = 0xF033 + 256 * x.val ∧ (encode (.ldMemVx x)).toNat = 0xF055 + 256 * x.val ∧
    (encode (.ldVxMem x)).toNat = 0xF065 + 256 * x.val)

/-- A few words of 95_test_vectors.md decode to the instructions they stand for, and two unknown ones to none.
That 0x0000 is unknown is the spec's decision D7, that 0x5121 is unknown its decision D6 (log 9). -/
def Obligations.ExampleWordsDecode : Prop :=
  decodeWord 0x600A = some (.ldVxNn 0 0x0A) ∧ decodeWord 0x8014 = some (.addVxVy 0 1) ∧
  decodeWord 0x00EE = some .ret ∧ decodeWord 0xD5A3 = some (.drwVxVyN 5 0xA 3) ∧
  decodeWord 0xF265 = some (.ldVxMem 2) ∧ decodeWord 0xE09E = some (.skpVx 0) ∧
  decodeWord 0x0000 = none ∧ decodeWord 0x5121 = none

/-- The loads of Vx: `LD Vx, NN`, `LD Vx, Vy`, `LD Vx, DT`; VF only as the named destination (40_alu.md R120, R122;
45_timers_keys_random.md R181). -/
def Obligations.LoadsWriteVxOnly : Prop :=
  ∀ (x y : RegId) (nn : Byte) (s : State),
    WritesV (exec (.ldVxNn x nn) s) s x nn ∧ WritesV (exec (.ldVxVy x y) s) s x (s.getV y) ∧
    WritesV (exec (.ldVxDt x) s) s x s.dt

/-- `ADD Vx, NN`, `OR`, `AND`, `XOR` (40_alu.md R121, R123 to R125). That no flag is written is the spec's decision D9. -/
def Obligations.AddImmediateAndBitwiseWriteVxWithoutFlag : Prop :=
  ∀ (x y : RegId) (nn : Byte) (s : State),
    WritesV (exec (.addVxNn x nn) s) s x (BitVec.ofNat 8 ((s.getV x).toNat + nn.toNat)) ∧
    WritesV (exec (.orVxVy x y) s) s x (s.getV x ||| s.getV y) ∧
    WritesV (exec (.andVxVy x y) s) s x (s.getV x &&& s.getV y) ∧
    WritesV (exec (.xorVxVy x y) s) s x (s.getV x ^^^ s.getV y)

/-- `ADD Vx, Vy`: the truncated sum, VF the carry (40_alu.md R126). That the flag is written last, so that it wins for
x = 15 and the sum is lost, is the spec's decision D8, which the model follows (log 9). -/
def Obligations.AddWritesSumAndCarry : Prop :=
  ∀ (x y : RegId) (s : State),
    WritesVAndFlag (exec (.addVxVy x y) s) s x (BitVec.ofNat 8 ((s.getV x).toNat + (s.getV y).toNat))
      ((s.getV x).toNat + (s.getV y).toNat > 255)

/-- `SUB` and `SUBN`: the difference modulo 256, VF = 1 exactly when there is no borrow (40_alu.md R127, R129). The
polarity is the spec's decision D10. -/
def Obligations.SubtractWritesDifferenceAndNoBorrow : Prop :=
  ∀ (x y : RegId) (s : State),
    WritesVAndFlag (exec (.subVxVy x y) s) s x (BitVec.ofNat 8 (256 + (s.getV x).toNat - (s.getV y).toNat))
      ((s.getV x).toNat ≥ (s.getV y).toNat) ∧
    WritesVAndFlag (exec (.subnVxVy x y) s) s x (BitVec.ofNat 8 (256 + (s.getV y).toNat - (s.getV x).toNat))
      ((s.getV y).toNat ≥ (s.getV x).toNat)

/-- `SHR` and `SHL` in both settings of the shift quirk: Vx in place, or Vy into Vx; VF is the bit shifted out
(40_alu.md R128, R130). What VF receives is the spec's decision D11. -/
def Obligations.ShiftsUseTheQuirkSourceAndShiftOutIntoVF : Prop :=
  ∀ (x y : RegId) (s : State) (src : Byte), src = (if s.quirkShift then s.getV x else s.getV y) →
    WritesVAndFlag (exec (.shrVxVy x y) s) s x (BitVec.ofNat 8 (src.toNat / 2)) (src.toNat % 2 = 1) ∧
    WritesVAndFlag (exec (.shlVxVy x y) s) s x (BitVec.ofNat 8 (2 * src.toNat)) (128 ≤ src.toNat)

/-- A V register changes only where an instruction names it as its destination or writes VF as its flag
(10_state.md R20, R21; 40_alu.md R132 (d), (e)). -/
def Obligations.RegistersChangeOnlyAsNamed : Prop :=
  ∀ (i : Instr) (s t : State) (r : RegId), exec i s = .next t → mayWriteV i r = false → t.getV r = s.getV r

/-- `JP NNN` and `JP V0, NNN` (41_control_flow.md R140, R143). -/
def Obligations.JumpsSetThePc : Prop :=
  ∀ (nnn : BitVec 12) (s : State),
    JumpsTo (exec (.jpNnn nnn) s) s (BitVec.ofNat 16 nnn.toNat) ∧
    JumpsTo (exec (.jpV0Nnn nnn) s) s (BitVec.ofNat 16 (nnn.toNat + (s.getV 0).toNat))

/-- `CALL NNN`: below depth 16 it pushes the pc and jumps, at depth 16 it is StackOverflow
(41_control_flow.md R141, 60_exceptions.md R201). That the fault leaves everything else, the pc at the fetch address plus 2
included, is the spec's decision D5 and its inference in 60_exceptions.md R206, which the model follows (log 9). -/
def Obligations.CallPushesAndJumpsOrOverflows : Prop :=
  ∀ (nnn : BitVec 12) (s : State),
    (∀ h : s.sp.val < 16, ∃ t, exec (.callNnn nnn) s = .next t ∧ t.pc = BitVec.ofNat 16 nnn.toNat ∧
      t.sp.val = s.sp.val + 1 ∧ t.stack[s.sp.val] = s.pc ∧
      (∀ k, (hk : k < 16) → k ≠ s.sp.val → t.stack[k] = s.stack[k]) ∧ OnlyChanges [.pc, .callStack] s t) ∧
    (s.sp = 16 → EntersFault (exec (.callNnn nnn) s) s .stackOverflow)

/-- `RET`: above depth 0 it pops the pc, at depth 0 it is StackUnderflow (41_control_flow.md R142, 60_exceptions.md R202).
That the popped entry stays is the spec's decision D36; that the fault leaves everything else, the pc at the fetch address
plus 2 included, is its decision D5 and its inference in 60_exceptions.md R206; the model follows them (log 9). -/
def Obligations.ReturnPopsOrUnderflows : Prop :=
  ∀ s : State,
    (∀ h : 0 < s.sp.val, ∃ t, exec .ret s = .next t ∧ t.pc = s.stack[s.sp.val - 1] ∧
      t.sp.val + 1 = s.sp.val ∧ t.stack = s.stack ∧ OnlyChanges [.pc, .callStack] s t) ∧
    (s.sp = 0 → EntersFault (exec .ret s) s .stackUnderflow)

/-- A `CALL` and then a `RET`, whatever the pc at the `RET`, bring back the pc after the `CALL` and the stack depth,
and change nothing but the one stack entry at the old depth (41_control_flow.md R141, R142; the spec's decision D36). -/
def Obligations.CallThenReturnRestores : Prop :=
  ∀ (nnn : BitVec 12) (s : State) (w : Word), s.sp.val < 16 →
    ∃ t u, exec (.callNnn nnn) s = .next t ∧ exec .ret (t.setPc w) = .next u ∧
      u.pc = s.pc ∧ u.sp = s.sp ∧ (∀ k, (hk : k < 16) → k ≠ s.sp.val → u.stack[k] = s.stack[k]) ∧
      OnlyChanges [.callStack] s u

/-- The four register skips (42_skips.md R150 to R153). -/
def Obligations.SkipsCompareRegisters : Prop :=
  ∀ (x y : RegId) (nn : Byte) (s : State),
    SkipsWhen (exec (.seVxNn x nn) s) s (s.getV x = nn) ∧
    SkipsWhen (exec (.sneVxNn x nn) s) s (s.getV x ≠ nn) ∧
    SkipsWhen (exec (.seVxVy x y) s) s (s.getV x = s.getV y) ∧
    SkipsWhen (exec (.sneVxVy x y) s) s (s.getV x ≠ s.getV y)

/-- The two key skips test the level of the key that the low nibble of Vx names (42_skips.md R154, R155).
That it is the low nibble is the spec's decision D17. -/
def Obligations.SkipsTestTheKeyLevel : Prop :=
  ∀ (x : RegId) (s : State),
    SkipsWhen (exec (.skpVx x) s) s (s.keys.getLsbD ((s.getV x).toNat % 16) = true) ∧
    SkipsWhen (exec (.sknpVx x) s) s (s.keys.getLsbD ((s.getV x).toNat % 16) = false)

/-- `CLS` clears all 2048 pixels and changes nothing else (43_draw.md R160). -/
def Obligations.ClearScreenClearsEveryPixel : Prop :=
  ∀ s : State, ∃ t, exec .cls s = .next t ∧ (∀ x y, t.pixel x y = false) ∧ OnlyChanges [.framebuffer] s t

/-- `DRW`, pixel by pixel: where the sprite fits in memory exactly the covered pixels are toggled and VF says whether a
set one was cleared; where it does not fit it is MemoryFault with nothing drawn (43_draw.md R161, R162). The sprite's
layout and the edges are the spec's decisions D12 and D13, followed by the model (log 8, log 9). -/
def Obligations.DrawXorsTheSpriteAndReportsCollision : Prop :=
  ∀ (x y : RegId) (n : Fin 16) (s : State),
    ((n.val = 0 ∨ s.i.toNat + n.val - 1 ≤ 4095) →
      ∃ t, exec (.drwVxVyN x y n) s = .next t ∧
        (∀ px py, s.spriteCovers x y n px py → t.pixel px py = !s.pixel px py) ∧
        (∀ px py, ¬ s.spriteCovers x y n px py → t.pixel px py = s.pixel px py) ∧
        ((∃ px py, s.spriteCovers x y n px py ∧ s.pixel px py = true) → t.getV 15 = 1) ∧
        ((¬ ∃ px py, s.spriteCovers x y n px py ∧ s.pixel px py = true) → t.getV 15 = 0) ∧
        (∀ r, r ≠ 15 → t.getV r = s.getV r) ∧ OnlyChanges [.v, .framebuffer] s t) ∧
    ((n.val ≠ 0 ∧ s.i.toNat + n.val - 1 > 4095) → EntersFault (exec (.drwVxVyN x y n) s) s .memoryFault)

/-- Drawing the same sprite twice at the same place restores the framebuffer (43_draw.md R161). The position registers
are not VF, which the first draw overwrites. -/
def Obligations.DrawingTwiceRestoresTheScreen : Prop :=
  ∀ (x y : RegId) (n : Fin 16) (s : State), x ≠ 15 → y ≠ 15 → s.i.toNat + n.val ≤ 4096 →
    ∃ t u, exec (.drwVxVyN x y n) s = .next t ∧ exec (.drwVxVyN x y n) t = .next u ∧ u.fb = s.fb

/-- `LD I, NNN` (44_index_memory.md R170). -/
def Obligations.IndexLoadWritesI : Prop :=
  ∀ (nnn : BitVec 12) (s : State),
    ∃ t, exec (.ldINnn nnn) s = .next t ∧ t.i.toNat = nnn.toNat ∧ OnlyChanges [.i] s t

/-- `ADD I, Vx`: modulo 65536 (44_index_memory.md R171). That it writes no flag and checks nothing is the spec's
decisions D9 and D24. -/
def Obligations.IndexAddWrapsAtSixteenBits : Prop :=
  ∀ (x : RegId) (s : State),
    ∃ t, exec (.addIVx x) s = .next t ∧ t.i.toNat = (s.i.toNat + (s.getV x).toNat) % 65536 ∧ OnlyChanges [.i] s t

/-- `LD F, Vx`: for every FONT_BASE the parameter allows, the address of the low nibble's glyph, with no memory access
(44_index_memory.md R172). The low nibble is the spec's decision D16; the base stays open (log 4). -/
def Obligations.FontLookupGivesTheGlyphAddress : Prop :=
  fontBase ≤ 0x1B0 ∧
  ∀ (x : RegId) (s : State), ∃ t, exec (.ldFVx x) s = .next t ∧
    t.i.toNat = fontBase + 5 * ((s.getV x).toNat % 16) ∧ OnlyChanges [.i] s t

/-- `LD B, Vx`: the three decimal digits at I, I+1, I+2, every other byte and I unchanged; out of memory it is
MemoryFault with no byte written (44_index_memory.md R173). Place and order of the digits, and that nothing is written
on a fault, are the spec's decisions D15 and D5. -/
def Obligations.BcdStoresThreeDigitsOrFaults : Prop :=
  ∀ (x : RegId) (s : State),
    (s.i.toNat + 2 ≤ 4095 → ∃ t, exec (.ldBVx x) s = .next t ∧
      (t.mem.read s.i.toNat).toNat = (s.getV x).toNat / 100 ∧
      (t.mem.read (s.i.toNat + 1)).toNat = (s.getV x).toNat / 10 % 10 ∧
      (t.mem.read (s.i.toNat + 2)).toNat = (s.getV x).toNat % 10 ∧
      (∀ a, a < s.i.toNat ∨ s.i.toNat + 2 < a → t.mem.read a = s.mem.read a) ∧ OnlyChanges [.memory] s t) ∧
    (s.i.toNat + 2 > 4095 → EntersFault (exec (.ldBVx x) s) s .memoryFault)

/-- `LD [I], Vx`: V0 to VX at I upward, every other byte unchanged, I by the load-store quirk; out of memory it is
MemoryFault with no byte written (44_index_memory.md R174). Order and fault are the spec's decision D25. -/
def Obligations.RegisterDumpStoresAndAdvancesIOrFaults : Prop :=
  ∀ (x : RegId) (s : State),
    (s.i.toNat + x.val ≤ 4095 → ∃ t, exec (.ldMemVx x) s = .next t ∧
      (∀ r : RegId, r ≤ x → t.mem.read (s.i.toNat + r.val) = s.getV r) ∧
      (∀ a, a < s.i.toNat ∨ s.i.toNat + x.val < a → t.mem.read a = s.mem.read a) ∧
      (s.quirkLoadStore = true → t.i = s.i) ∧
      (s.quirkLoadStore = false → t.i = BitVec.ofNat 16 (s.i.toNat + x.val + 1)) ∧
      OnlyChanges [.memory, .i] s t) ∧
    (s.i.toNat + x.val > 4095 → EntersFault (exec (.ldMemVx x) s) s .memoryFault)

/-- `LD Vx, [I]`: V0 to VX from I upward, the other registers and memory unchanged, I by the load-store quirk; out of
memory it is MemoryFault with no register changed (44_index_memory.md R175). Order and fault are the spec's decision D25. -/
def Obligations.RegisterLoadLoadsAndAdvancesIOrFaults : Prop :=
  ∀ (x : RegId) (s : State),
    (s.i.toNat + x.val ≤ 4095 → ∃ t, exec (.ldVxMem x) s = .next t ∧
      (∀ r : RegId, r ≤ x → t.getV r = s.mem.read (s.i.toNat + r.val)) ∧
      (∀ r : RegId, x < r → t.getV r = s.getV r) ∧
      (s.quirkLoadStore = true → t.i = s.i) ∧
      (s.quirkLoadStore = false → t.i = BitVec.ofNat 16 (s.i.toNat + x.val + 1)) ∧
      OnlyChanges [.v, .i] s t) ∧
    (s.i.toNat + x.val > 4095 → EntersFault (exec (.ldVxMem x) s) s .memoryFault)

/-- A register dump, then a register load at the same I whatever the registers hold by then, brings V0 to VX back
(44_index_memory.md R174, R175; 20_memory.md R69). -/
def Obligations.DumpThenLoadRestoresRegisters : Prop :=
  ∀ (x : RegId) (s : State) (v' : Vector Byte 16), s.i.toNat + x.val ≤ 4095 →
    ∃ t u, exec (.ldMemVx x) s = .next t ∧
      exec (.ldVxMem x) { t with v := v', i := s.i } = .next u ∧ ∀ r : RegId, r ≤ x → u.getV r = s.getV r

/-- Both storing instructions, `LD B, Vx` and `LD [I], Vx`: a fetch right after, from any address in memory, sees the
stored bytes where they fall and the old bytes elsewhere, big-endian (20_memory.md R63, R71). That stores reach the fetch
is the spec's decision D27, the digits' place and order its decision D15, the registers' order D25 (log 9). -/
def Obligations.StoresAreSeenByTheNextFetch : Prop :=
  ∀ (x : RegId) (s : State) (a : Word), a.toNat ≤ 4094 →
    (s.i.toNat + 2 ≤ 4095 → ∃ t op, exec (.ldBVx x) s = .next t ∧ (t.setPc a).fetch = .ok op ∧
      op.toNat = 256 * s.byteAfterBcd x a.toNat + s.byteAfterBcd x (a.toNat + 1)) ∧
    (s.i.toNat + x.val ≤ 4095 → ∃ t op, exec (.ldMemVx x) s = .next t ∧ (t.setPc a).fetch = .ok op ∧
      op.toNat = 256 * s.byteAfterDump x a.toNat + s.byteAfterDump x (a.toNat + 1))

/-- `LD DT, Vx` and `LD ST, Vx`, with `sound_active` at once (45_timers_keys_random.md R182, R183). -/
def Obligations.TimerLoadsWriteTheirTimer : Prop :=
  ∀ (x : RegId) (s : State),
    (∃ t, exec (.ldDtVx x) s = .next t ∧ t.dt = s.getV x ∧ OnlyChanges [.dt] s t) ∧
    (∃ t, exec (.ldStVx x) s = .next t ∧ t.st = s.getV x ∧ (t.soundActive = true ↔ (s.getV x).toNat > 0) ∧
      OnlyChanges [.st] s t)

/-- `RND Vx, NN`: the free draw ANDed with NN, so never a bit that NN has clear (45_timers_keys_random.md R180). That the
draw is numbered by a counter, which moves on by one, is the model's choice (log 6). -/
def Obligations.RandomIsTheMaskedDraw : Prop :=
  ∀ (x : RegId) (nn : Byte) (s : State), ∃ t, exec (.rndVxNn x nn) s = .next t ∧
    t.getV x = (Config.rndDraw s.rndCount &&& nn) ∧ (∀ k, nn.getLsbD k = false → (t.getV x).getLsbD k = false) ∧
    (∀ r, r ≠ x → t.getV r = s.getV r) ∧ t.rndCount = s.rndCount + 1 ∧ OnlyChanges [.v, .draws] s t

/-- `LD Vx, K` arms the wait and writes no register (45_timers_keys_random.md R184). The latches are the spec's decision
D18. -/
def Obligations.KeyWaitInstructionArmsTheWait : Prop :=
  ∀ (x : RegId) (s : State), ∃ t, exec (.ldVxK x) s = .next t ∧
    t.awaitingKey = true ∧ t.keyDest = x ∧ t.keyPrev = s.keys ∧
    (s.terminated = false → s.pause = false → t.runState = .awaitingKey) ∧ OnlyChanges [.keyWait] s t

/-- The key-wait pass: the lowest newly pressed key ends the wait, else only the remembered keys change and the wait goes
on; the pc does not move (45_timers_keys_random.md R185). The lowest key and the latches are the spec's decision D18. -/
def Obligations.KeyWaitPassCompletesOrKeepsWaiting : Prop :=
  ∀ s : State, s.terminated = false → s.pause = false → s.awaitingKey = true →
    (∀ j : Fin 16, s.newlyDown j → (∀ k, k < j → ¬ s.newlyDown k) →
      ∃ t, execPass s = .next t ∧ (t.getV s.keyDest).toNat = j.val ∧ (∀ r, r ≠ s.keyDest → t.getV r = s.getV r) ∧
        t.awaitingKey = false ∧ t.keyDest = s.keyDest ∧ t.keyPrev = s.keyPrev ∧ OnlyChanges [.v, .keyWait] s t) ∧
    ((∀ j, ¬ s.newlyDown j) →
      ∃ t, execPass s = .next t ∧ t.awaitingKey = true ∧ t.keyDest = s.keyDest ∧ t.keyPrev = s.keys ∧
        OnlyChanges [.keyWait] s t)

/-- One step performs the next event of the script, and an execution pass when nothing is scripted; each event acts
on the state with the rest of the script (the model's choice, log 2). -/
def Obligations.StepPerformsTheNextEvent : Prop :=
  ∀ s : State,
    (s.script = [] → step s = execPass s) ∧
    (∀ rest, s.script = .exec :: rest → step s = execPass { s with script := rest }) ∧
    (∀ e rest, e ≠ .exec → s.script = e :: rest → step s = .next ({ s with script := rest }.hostEvent e))

/-- A step of a running core whose bytes at the pc decode to `i` is `exec i` on the state whose pc has moved 2 on
(30_encoding.md R96). That an empty script means a pass is the model's choice (log 2); that `exec` sees the advanced pc is
its inference (log 12). -/
def Obligations.StepRunsTheDecodedInstruction : Prop :=
  ∀ (s : State) (i : Instr), s.running → s.pc.toNat ≤ 4094 →
    decode [s.mem.read s.pc.toNat, s.mem.read (s.pc.toNat + 1)] = .ok (i, []) →
    (s.script = [] → step s = exec i (s.setPc (s.pc + 2))) ∧
    (∀ rest, s.script = .exec :: rest → step s = exec i ({ s with script := rest }.setPc (s.pc + 2)))

/-- An unknown word is logged with its fetch address, the pc has moved 2 on, and nothing else changes
(41_control_flow.md R144, 60_exceptions.md R204). Which words are unknown rests on the spec's decisions D6 and D7 (log 9),
the log's contents on D30; that the log event is kept as a list is the model's choice (log 10). -/
def Obligations.UnknownWordIsALoggedNoOp : Prop :=
  ∀ (s : State) (op : Word), s.running → s.pc.toNat ≤ 4094 →
    decode [s.mem.read s.pc.toNat, s.mem.read (s.pc.toNat + 1)] = .error (.unknownOpcode op) →
    ∃ t, execPass s = .next t ∧ t.pc = s.pc + 2 ∧ t.logOut = ⟨op, s.pc⟩ :: s.logOut ∧
      OnlyChanges [.pc, .logOut] s t

/-- A fetch with either byte out of memory is MemoryFault, and the pc keeps the fetch address (30_encoding.md R96,
60_exceptions.md R206). That the fault is fatal is the spec's decision D3. -/
def Obligations.FetchOutOfMemoryFaults : Prop :=
  ∀ s : State, s.running → s.pc.toNat > 4094 → EntersFault (execPass s) s .memoryFault

/-- While terminated or paused an execution pass changes nothing (10_state.md R31, R32). -/
def Obligations.StoppedCorePassesChangeNothing : Prop :=
  ∀ s : State, s.terminated = true ∨ s.pause = true → execPass s = .next s

/-- A terminated core ignores every event but a cold reset: at most the host's own input levels differ
(10_state.md R31). -/
def Obligations.TerminatedCoreIgnoresEventsUntilColdReset : Prop :=
  ∀ (s : State) (e : Event), s.terminated = true → e ≠ .coldReset →
    ∃ t, deliver e s = .next t ∧ OnlyChanges [.inputs] s t

/-- A tick lowers each nonzero timer by 1, whether paused or awaiting a key, and does nothing when terminated
(60_exceptions.md R210). The terminated case is the spec's decision D19. -/
def Obligations.TickLowersBothTimers : Prop :=
  ∀ s : State, ∃ t, deliver .tick60 s = .next t ∧
    (s.terminated = true → t = s) ∧
    (s.terminated = false → t.dt.toNat = s.dt.toNat - 1 ∧ t.st.toNat = s.st.toNat - 1 ∧
      OnlyChanges [.dt, .st] s t)

/-- A change of an input level is seen at once, in every run state, and changes no other input and nothing else
(60_exceptions.md R211, R214, R215). That a terminated core's inputs follow too is the model's inference (log 14). -/
def Obligations.InputChangesSetTheirLevelOnly : Prop :=
  ∀ (s : State) (k : BitVec 16) (b : Bool),
    (∃ t, deliver (.setKeys k) s = .next t ∧ t.keys = k ∧ t.pause = s.pause ∧
      t.quirkLoadStore = s.quirkLoadStore ∧ t.quirkShift = s.quirkShift ∧ t.vwrap = s.vwrap ∧
      OnlyChanges [.inputs] s t) ∧
    (∃ t, deliver (.setPause b) s = .next t ∧ t.pause = b ∧ t.keys = s.keys ∧
      t.quirkLoadStore = s.quirkLoadStore ∧ t.quirkShift = s.quirkShift ∧ t.vwrap = s.vwrap ∧
      OnlyChanges [.inputs] s t) ∧
    (∃ t, deliver (.setQuirkLoadStore b) s = .next t ∧ t.quirkLoadStore = b ∧ t.keys = s.keys ∧
      t.pause = s.pause ∧ t.quirkShift = s.quirkShift ∧ t.vwrap = s.vwrap ∧ OnlyChanges [.inputs] s t) ∧
    (∃ t, deliver (.setQuirkShift b) s = .next t ∧ t.quirkShift = b ∧ t.keys = s.keys ∧
      t.pause = s.pause ∧ t.quirkLoadStore = s.quirkLoadStore ∧ t.vwrap = s.vwrap ∧ OnlyChanges [.inputs] s t) ∧
    (∃ t, deliver (.setVwrap b) s = .next t ∧ t.vwrap = b ∧ t.keys = s.keys ∧ t.pause = s.pause ∧
      t.quirkLoadStore = s.quirkLoadStore ∧ t.quirkShift = s.quirkShift ∧ OnlyChanges [.inputs] s t)

/-- `k` ticks in a row bring the delay timer down by `k`, to 0 and no further (60_exceptions.md R210,
70_reset_and_hazards.md R247). -/
def Obligations.TimerReachesZeroAfterItsValueInTicks : Prop :=
  ∀ (k : Nat) (s : State), s.terminated = false → s.script = List.replicate k .tick60 →
    ∃ t, runsTo k s t ∧ t.dt.toNat = s.dt.toNat - k ∧ t.st.toNat = s.st.toNat - k

/-- `terminate` sets `terminated` and leaves `fault` (60_exceptions.md R212, the spec's decision D31). -/
def Obligations.TerminateStopsTheCore : Prop :=
  ∀ s : State, ∃ t, deliver .terminate s = .next t ∧ t.terminated = true ∧ OnlyChanges [.terminated] s t

/-- A soft reset of a core that is not terminated clears the core, and every address of memory holds what R241 says;
a terminated core ignores it (70_reset_and_hazards.md R241). The completions are the spec's decision D22. -/
def Obligations.SoftResetClearsCoreAndReloadsMemory : Prop :=
  ∀ s : State, ∃ t, deliver .softReset s = .next t ∧
    (s.terminated = true → t = s) ∧
    (s.terminated = false → t.coreCleared ∧ (∀ a, a ≤ 4095 → t.mem.read a = softResetByte s.mem s.romImage a) ∧
      t.terminated = false ∧ t.fault = s.fault ∧ t.romImage = s.romImage ∧ Part.inputs.same s t)

/-- A load of at most 3584 bytes keeps the image and soft-resets with it; a longer one, or any load of a terminated core,
changes nothing (70_reset_and_hazards.md R242). That a load resets the core is the spec's decision D32. -/
def Obligations.LoadKeepsImageAndResetsOrChangesNothing : Prop :=
  ∀ (s : State) (img : List Byte), ∃ t, deliver (.load img) s = .next t ∧
    (img.length > 3584 ∨ s.terminated = true → t = s) ∧
    (img.length ≤ 3584 → s.terminated = false → t.romImage = img ∧ t.coreCleared ∧
      (∀ a, a ≤ 4095 → t.mem.read a = softResetByte s.mem img a) ∧
      t.terminated = false ∧ t.fault = s.fault ∧ Part.inputs.same s t)

/-- A cold reset from any state: memory is the font table and zeros, the ROM is forgotten, `terminated` and `fault` are
cleared, the core is cleared, the inputs stay (70_reset_and_hazards.md R240, 10_state.md R37). All of it is the spec's decision D21; the font bytes are
the spec's general knowledge (log 5). -/
def Obligations.ColdResetClearsEverythingButInputs : Prop :=
  ∀ s : State, ∃ t, deliver .coldReset s = .next t ∧ t.coreCleared ∧ t.terminated = false ∧ t.fault = .none ∧
    t.romImage = [] ∧ (∀ a, a ≤ 4095 → t.mem.read a = softResetByte [] [] a) ∧
    (∀ k < 80, t.mem.read (fontBase + k) = fontTable.getD k 0) ∧
    (∀ a, a ≤ 4095 → (a < fontBase ∨ fontBase + 80 ≤ a) → t.mem.read a = 0) ∧
    Part.inputs.same s t

/-- The state after reset has the values the spec gives (10_state.md R37, the spec's decisions D21 and D22), with the
font table of 20_memory.md R62 byte by byte, glyph 0 first: the spec's general knowledge (log 5). The input levels, which
are the model's choice (log 7), are not stated. -/
def Obligations.ResetStateHasTheSpecsValues : Prop :=
  State.reset.coreCleared ∧ State.reset.terminated = false ∧ State.reset.fault = .none ∧
  State.reset.romImage = [] ∧
  fontTable =
    [0xF0, 0x90, 0x90, 0x90, 0xF0] ++ [0x20, 0x60, 0x20, 0x20, 0x70] ++ [0xF0, 0x10, 0xF0, 0x80, 0xF0] ++
    [0xF0, 0x10, 0xF0, 0x10, 0xF0] ++ [0x90, 0x90, 0xF0, 0x10, 0x10] ++ [0xF0, 0x80, 0xF0, 0x10, 0xF0] ++
    [0xF0, 0x80, 0xF0, 0x90, 0xF0] ++ [0xF0, 0x10, 0x20, 0x40, 0x40] ++ [0xF0, 0x90, 0xF0, 0x90, 0xF0] ++
    [0xF0, 0x90, 0xF0, 0x10, 0xF0] ++ [0xF0, 0x90, 0xF0, 0x90, 0x90] ++ [0xE0, 0x90, 0xE0, 0x90, 0xE0] ++
    [0xF0, 0x80, 0x80, 0x80, 0xF0] ++ [0xE0, 0x90, 0x90, 0x90, 0xE0] ++ [0xF0, 0x80, 0xF0, 0x80, 0xF0] ++
    [0xF0, 0x80, 0xF0, 0x80, 0x80] ∧
  (∀ k < 80, State.reset.mem.read (fontBase + k) = fontTable.getD k 0) ∧
  (∀ a, a ≤ 4095 → (a < fontBase ∨ fontBase + 80 ≤ a) → State.reset.mem.read a = 0)

/-- `run_state` is the view by priority TERMINATED, PAUSED, AWAITING_KEY, RUNNING (10_state.md R31, the spec's
decision D20). -/
def Obligations.RunStateIsTheViewByPriority : Prop :=
  ∀ s : State,
    (s.terminated = true → s.runState = .terminated) ∧
    (s.terminated = false → s.pause = true → s.runState = .paused) ∧
    (s.terminated = false → s.pause = false → s.awaitingKey = true → s.runState = .awaitingKey) ∧
    (s.terminated = false → s.pause = false → s.awaitingKey = false → s.runState = .running)

/-- The outputs: `sound_active`, the flat framebuffer, the fault code (10_state.md R34, 43_draw.md R163,
60_exceptions.md R200). The codes are the spec's decision D4. -/
def Obligations.OutputsShowTheState : Prop :=
  ∀ s : State,
    (s.soundActive = true ↔ s.st.toNat > 0) ∧
    (∀ (x : Fin 64) (y : Fin 32) (k : Fin 2048), k.val = y.val * 64 + x.val → s.fbOut k = s.pixel x y) ∧
    (s.fault = .none → s.faultOut = 0) ∧ (s.fault = .stackOverflow → s.faultOut = 1) ∧
    (s.fault = .stackUnderflow → s.faultOut = 2) ∧ (s.fault = .memoryFault → s.faultOut = 3)

/-- Events driven in the same instant are put in the order of 60_exceptions.md R216 (the spec's decision D19), and none
is lost or added (log 3): the ranks, by constructor, are those of the rule, and the arrangement rises in them. -/
def Obligations.CoincidentEventsAreOrdered : Prop :=
  (∀ (img : List Byte) (k : BitVec 16) (b : Bool),
    eventRank .coldReset < eventRank .terminate ∧ eventRank .terminate < eventRank (.load img) ∧
    eventRank (.load img) < eventRank .softReset ∧
    (∀ level, level = .setKeys k ∨ level = .setPause b ∨ level = .setQuirkLoadStore b ∨ level = .setQuirkShift b ∨
      level = .setVwrap b → eventRank .softReset < eventRank level ∧ eventRank level < eventRank .exec) ∧
    eventRank .exec < eventRank .tick60 ∧ eventRank .tick60 < eventRank .sampleOutputs) ∧
  ∀ es : List Event, (arrange es).Perm es ∧ (arrange es).Pairwise (fun e f => eventRank e ≤ eventRank f)

/-- The invariant holds after reset (10_state.md R31, R36; 20_memory.md R60). -/
def Obligations.InvariantHoldsAtReset : Prop := State.reset.Inv

/-- THE INVARIANT: every step from every state that meets it, whatever the event, gives a state that meets it. -/
def Obligations.EveryStepKeepsTheInvariant : Prop :=
  ∀ s t : State, s.Inv → step s = .next t → t.Inv

/-- The machine never stops the model: every step of every state answers a next state, because every fatal fault has an
entry and everything else completes (60_exceptions.md R205; log 1). -/
def Obligations.EveryStepAnswersANextState : Prop := ∀ s : State, ∃ t, step s = .next t

/-- No instruction but `CALL` and `RET` changes the stack or `sp` (10_state.md R24). -/
def Obligations.OnlyCallAndReturnTouchTheStack : Prop :=
  ∀ (i : Instr) (s t : State), exec i s = .next t → i ≠ .ret → (∀ nnn, i ≠ .callNnn nnn) →
    t.stack = s.stack ∧ t.sp = s.sp

/-- No instruction but `LD B` and `LD [I], Vx` changes memory, none but `CLS` and `DRW` the framebuffer
(20_memory.md R66, 43_draw.md R163). -/
def Obligations.OnlyTheNamedInstructionsStoreOrDraw : Prop :=
  ∀ (i : Instr) (s t : State), exec i s = .next t →
    ((∀ x, i ≠ .ldBVx x) → (∀ x, i ≠ .ldMemVx x) → ∀ a, t.mem.read a = s.mem.read a) ∧
    (i ≠ .cls → (∀ x y n, i ≠ .drwVxVyN x y n) → t.fb = s.fb)

/-- I is changed by the five instructions that name it and by no other; DT and ST by their loads and no other
(10_state.md R22, R25; 44_index_memory.md R176; 45_timers_keys_random.md R186). -/
def Obligations.OnlyTheNamedInstructionsWriteIndexAndTimers : Prop :=
  ∀ (i : Instr) (s t : State), exec i s = .next t →
    ((∀ nnn, i ≠ .ldINnn nnn) → (∀ x, i ≠ .addIVx x) → (∀ x, i ≠ .ldFVx x) → (∀ x, i ≠ .ldMemVx x) →
      (∀ x, i ≠ .ldVxMem x) → t.i = s.i) ∧
    ((∀ x, i ≠ .ldDtVx x) → t.dt = s.dt) ∧ ((∀ x, i ≠ .ldStVx x) → t.st = s.st)

/-- No execution pass changes an input of the core, the host's ROM image or the script (10_state.md R26, R29, R30,
R32). -/
def Obligations.PassesNeverChangeInputs : Prop :=
  ∀ s t : State, execPass s = .next t → Part.inputs.same s t ∧ t.romImage = s.romImage ∧ t.script = s.script

/-- The pc advances by exactly 2 except for the explicit control-flow instructions: `exec` leaves the advanced pc
(30_encoding.md R96). -/
def Obligations.PcAdvancesByTwoExceptControlFlow : Prop :=
  ∀ (i : Instr) (s t : State), exec i s = .next t → controlFlow i = false → t.pc = s.pc

/-- Faults are precise: an instruction that enters a fault has changed nothing but `terminated` and `fault`
(60_exceptions.md R205, R206). -/
def Obligations.FaultingInstructionChangesNothingElse : Prop :=
  ∀ (i : Instr) (s t : State), s.terminated = false → exec i s = .next t → t.terminated = true →
    t = { s with terminated := true, fault := t.fault } ∧ t.fault ≠ .none

/-- ST is read by no instruction: a pass from a state that differs only in ST gives a state that differs only in ST
(10_state.md R25). -/
def Obligations.SoundTimerIsNeverRead : Prop :=
  ∀ (s t : State) (b : Byte), execPass s = .next t → ∃ u, execPass (s.setSt b) = .next u ∧ OnlyChanges [.st] t u

/-- Stack entries at and above `sp` are not readable: a pass from a state that differs only there gives a state that
differs only there (10_state.md R24). -/
def Obligations.StackAboveSpIsUnobservable : Prop :=
  ∀ s s' t : State, AgreeBelowSp s s' → execPass s = .next t → ∃ t', execPass s' = .next t' ∧ AgreeBelowSp t t'
end

