-- ==== Sys2Proof/Laws/Decode.lean ====
section
/-! SUPPORT. The opcode map: no two rows overlap, so the row a word selects is the one the search finds; and the
fields of an encoded word. -/

namespace Sys2Proof

/-- Two rows overlap when no bit that both masks examine differs in their patterns. -/
def rowsOverlap (r r' : OpcodeRow) : Bool := (r.pattern ^^^ r'.pattern) &&& (r.mask &&& r'.mask) == 0

/-- No two rows of the opcode map overlap (30_encoding.md R94). -/
theorem opcodeMap_disjoint : opcodeMap.Pairwise (fun r r' => rowsOverlap r r' = false) := by decide

theorem opcodeMap_length : opcodeMap.length = 34 := by decide

/-- A word that selects two rows shows that they overlap. -/
theorem rowsOverlap_of_selects {r r' : OpcodeRow} {op : Word} (h : r.selects op = true)
    (h' : r'.selects op = true) : rowsOverlap r r' = true := by
  simp only [OpcodeRow.selects, beq_iff_eq] at h h'
  simp only [rowsOverlap, beq_iff_eq, ← h, ← h']
  apply BitVec.eq_of_getLsbD_eq
  intro i _
  simp only [BitVec.getLsbD_and, BitVec.getLsbD_xor, show (0 : Word).getLsbD i = false from BitVec.getLsbD_zero]
  cases op.getLsbD i <;> cases r.mask.getLsbD i <;> cases r'.mask.getLsbD i <;> rfl

theorem find_selected {rows : List OpcodeRow} (hd : rows.Pairwise (fun r r' => rowsOverlap r r' = false))
    {r : OpcodeRow} (hr : r ∈ rows) {op : Word} (h : r.selects op = true) :
    rows.find? (fun r => r.selects op) = some r := by
  induction rows with
  | nil => cases hr
  | cons q rows ih =>
    have ⟨hq, hrows⟩ := List.pairwise_cons.mp hd
    rcases List.mem_cons.mp hr with rfl | hr
    · simp [h]
    · have : q.selects op = false := by
        by_contra hf
        have := rowsOverlap_of_selects (by simpa using hf) h
        simp [hq r hr] at this
      simp [this, ih hrows hr]

/-- The decoder on a word that selects a row builds that row's instruction. -/
theorem decodeWord_of_selects {r : OpcodeRow} (hr : r ∈ opcodeMap) {op : Word} (h : r.selects op = true) :
    decodeWord op = some (r.build op) := by
  simp [decodeWord, find_selected opcodeMap_disjoint hr h]

/-- A word is UnknownOpcode exactly when it selects no row. -/
theorem decodeWord_eq_none {op : Word} : decodeWord op = none ↔ ∀ r ∈ opcodeMap, r.selects op = false := by
  simp [decodeWord]

/-- A decoded instruction comes from a row that the word selects. -/
theorem decodeWord_eq_some {op : Word} {i : Instr} (h : decodeWord op = some i) :
    ∃ r ∈ opcodeMap, r.selects op = true ∧ r.build op = i := by
  simp only [decodeWord, Option.map_eq_some_iff] at h
  obtain ⟨r, hf, hb⟩ := h
  exact ⟨r, List.mem_of_find?_eq_some hf, by simpa using List.find?_some hf, hb⟩

section Fields
variable (c : BitVec 4) (x y n : Fin 16) (nn : Byte) (nnn : BitVec 12)

/-- The bits of a word of format XNN. -/
theorem encodeXNN_bit (j : Nat) : (encodeXNN c x nn).getLsbD j =
    if j < 8 then nn.getLsbD j else if j < 12 then (nibble x).getLsbD (j - 8) else c.getLsbD (j - 12) := by
  have h1 : (encodeXNN c x nn).getLsbD j = if j < 8 then nn.getLsbD j else (c ++ nibble x).getLsbD (j - 8) :=
    BitVec.getLsbD_append
  have h2 : (c ++ nibble x).getLsbD (j - 8) =
      if j - 8 < 4 then (nibble x).getLsbD (j - 8) else c.getLsbD (j - 8 - 4) := BitVec.getLsbD_append
  rw [h1, h2, Nat.sub_sub]
  split <;> [rfl; (split <;> split <;> first | rfl | omega)]

/-- The bits of a word of format XY or XYN. -/
theorem encodeXYN_bit (j : Nat) : (encodeXYN c x y n).getLsbD j =
    if j < 4 then (nibble n).getLsbD j else if j < 8 then (nibble y).getLsbD (j - 4)
    else if j < 12 then (nibble x).getLsbD (j - 8) else c.getLsbD (j - 12) := by
  have h1 : (encodeXYN c x y n).getLsbD j =
      if j < 4 then (nibble n).getLsbD j else (c ++ nibble x ++ nibble y).getLsbD (j - 4) := BitVec.getLsbD_append
  have h2 : (c ++ nibble x ++ nibble y).getLsbD (j - 4) =
      if j - 4 < 4 then (nibble y).getLsbD (j - 4) else (c ++ nibble x).getLsbD (j - 4 - 4) := BitVec.getLsbD_append
  have h3 : (c ++ nibble x).getLsbD (j - 4 - 4) =
      if j - 4 - 4 < 4 then (nibble x).getLsbD (j - 4 - 4) else c.getLsbD (j - 4 - 4 - 4) := BitVec.getLsbD_append
  rw [h1, h2, h3, Nat.sub_sub, Nat.sub_sub]
  by_cases h4 : j < 4
  · rw [if_pos h4, if_pos h4]
  · by_cases h8 : j < 8
    · rw [if_neg h4, if_neg h4, if_pos (show j - 4 < 4 by omega), if_pos h8]
    · rw [if_neg h4, if_neg h4, if_neg (show ¬ j - 4 < 4 by omega), if_neg h8]
      split <;> split <;> first | rfl | omega

/-- The bits of a word of format NNN. -/
theorem encodeNNN_bit (j : Nat) : (encodeNNN c nnn).getLsbD j =
    if j < 12 then nnn.getLsbD j else c.getLsbD (j - 12) := BitVec.getLsbD_append

@[simp] theorem fieldX_encodeXNN : fieldX (encodeXNN c x nn) = x := by
  have : (encodeXNN c x nn).extractLsb' 8 4 = nibble x := by
    apply BitVec.eq_of_getLsbD_eq; intro i hi
    simp [encodeXNN_bit, hi, show 8 + i < 12 by omega]
  rw [fieldX, this]; rfl

@[simp] theorem fieldNN_encodeXNN : fieldNN (encodeXNN c x nn) = nn := by
  apply BitVec.eq_of_getLsbD_eq; intro i hi
  simp [fieldNN, encodeXNN_bit, hi]

@[simp] theorem fieldX_encodeXYN : fieldX (encodeXYN c x y n) = x := by
  have : (encodeXYN c x y n).extractLsb' 8 4 = nibble x := by
    apply BitVec.eq_of_getLsbD_eq; intro i hi
    simp [encodeXYN_bit, hi, show ¬ (8 + i < 4) by omega, show 8 + i < 12 by omega]
  rw [fieldX, this]; rfl

@[simp] theorem fieldY_encodeXYN : fieldY (encodeXYN c x y n) = y := by
  have : (encodeXYN c x y n).extractLsb' 4 4 = nibble y := by
    apply BitVec.eq_of_getLsbD_eq; intro i hi
    simp [encodeXYN_bit, hi, show 4 + i < 8 by omega]
  rw [fieldY, this]; rfl

@[simp] theorem fieldN_encodeXYN : fieldN (encodeXYN c x y n) = n := by
  have : (encodeXYN c x y n).extractLsb' 0 4 = nibble n := by
    apply BitVec.eq_of_getLsbD_eq; intro i hi
    simp [encodeXYN_bit, hi]
  rw [fieldN, this]; rfl

@[simp] theorem fieldNNN_encodeNNN : fieldNNN (encodeNNN c nnn) = nnn := by
  apply BitVec.eq_of_getLsbD_eq; intro i hi
  simp [fieldNNN, encodeNNN_bit, hi]

/-- A class mask keeps the class nibble of a word of format NNN. -/
theorem encodeNNN_and_class : encodeNNN c nnn &&& (0xF000 : Word) = encodeNNN c 0 := by
  apply BitVec.eq_of_getLsbD_eq; intro i hi
  rw [BitVec.getLsbD_and, encodeNNN_bit, encodeNNN_bit]
  interval_cases i <;> simp

/-- A class mask keeps the class nibble of a word of format XNN. -/
theorem encodeXNN_and_class : encodeXNN c x nn &&& (0xF000 : Word) = encodeXNN c 0 0 := by
  apply BitVec.eq_of_getLsbD_eq; intro i hi
  rw [BitVec.getLsbD_and, encodeXNN_bit, encodeXNN_bit]
  interval_cases i <;> simp [nibble]

/-- The mask of format X keeps everything but the register number. -/
theorem encodeXNN_and_sub : encodeXNN c x nn &&& (0xF0FF : Word) = encodeXNN c 0 nn := by
  apply BitVec.eq_of_getLsbD_eq; intro i hi
  rw [BitVec.getLsbD_and, encodeXNN_bit, encodeXNN_bit]
  interval_cases i <;> simp [nibble]

/-- The mask of format XY keeps everything but the two register numbers. -/
theorem encodeXYN_and_sub : encodeXYN c x y n &&& (0xF00F : Word) = encodeXYN c 0 0 n := by
  apply BitVec.eq_of_getLsbD_eq; intro i hi
  rw [BitVec.getLsbD_and, encodeXYN_bit, encodeXYN_bit]
  interval_cases i <;> simp [nibble]

/-- A class mask keeps the class nibble of a word of format XYN. -/
theorem encodeXYN_and_class : encodeXYN c x y n &&& (0xF000 : Word) = encodeXYN c 0 0 0 := by
  apply BitVec.eq_of_getLsbD_eq; intro i hi
  rw [BitVec.getLsbD_and, encodeXYN_bit, encodeXYN_bit]
  interval_cases i <;> simp [nibble]

end Fields

end Sys2Proof
end

