-- ==== Sys2Proof/Laws/Frame.lean ====
section
/-! SUPPORT. The laws of the framebuffer and of placing a coordinate. -/

namespace Sys2Proof.Machine

@[simp] theorem framePixel_blank (x : Fin 64) (y : Fin 32) : framePixel blankFrame x y = false := by
  simp [framePixel, blankFrame]

/-- A toggle changes exactly its own pixel. -/
@[simp] theorem framePixel_toggle (f : Frame) (x x' : Fin 64) (y y' : Fin 32) :
    framePixel (toggleFrame f x y) x' y' = (framePixel f x' y' ^^ decide (x = x' ∧ y = y')) := by
  by_cases hy : y = y'
  · subst hy; simp [framePixel, toggleFrame, Fin.ext_iff, eq_comm]
  · have : y.val ≠ y'.val := fun h => hy (Fin.ext h)
    simp [framePixel, toggleFrame, hy, this]

/-- Two framebuffers with the same pixels are the same. -/
theorem frame_ext {f g : Frame} (h : ∀ x y, framePixel f x y = framePixel g x y) : f = g := by
  apply Vector.ext
  intro y hy
  apply BitVec.eq_of_getLsbD_eq
  intro x hx
  exact h ⟨x, hx⟩ ⟨y, hy⟩

/-- Everything `place` can answer: where a coordinate is placed, it is the coordinate itself or, when wrapping, its
remainder. -/
theorem place_eq_some {size : Nat} [NeZero size] {wrap : Bool} {p : Nat} {q : Fin size} :
    place size wrap p = some q ↔ p % size = q.val ∧ (wrap = true ∨ p < size) := by
  unfold place
  by_cases h : p < size
  · simp [h, Fin.ext_iff, Nat.mod_eq_of_lt h]
  · cases wrap <;> simp [h, Fin.ext_iff, Fin.ofNat]

end Sys2Proof.Machine
end

