-- ==== Sys2Proof/Laws/Memory.lean ====
section
/-! SUPPORT. The laws of memory: what a byte reads as after each operation, and that every operation keeps the
canonical form. -/

namespace Sys2Proof.Machine

/-- The font table lies in the reserved region. -/
theorem inFont_lt {a : Nat} (h : inFont a = true) : a < 0x200 := by
  simp [inFont] at h
  exact h.1

/-- Outside the reserved region nothing but zero is there after cold reset. -/
theorem unwritten_program {a : Nat} (h : 0x200 ≤ a) : unwritten a = 0 := by
  have : inFont a = false := by
    by_contra hf
    have := inFont_lt (by simpa using hf)
    omega
  simp [unwritten, this]

/-- An unlisted address of the font table reads as its font byte (20_memory.md R62). -/
theorem unwritten_font {k : Nat} (h : k < 80) : unwritten (fontBase + k) = fontTable.getD k 0 := by
  have hb : fontBase < 433 := Config.fontBase.isLt
  have hf : inFont (fontBase + k) = true := by
    simp only [inFont, Bool.and_eq_true, decide_eq_true_eq]
    omega
  simp [unwritten, hf]

@[simp] theorem Memory.read_nil (a : Nat) : Memory.read [] a = unwritten a := rfl

theorem Memory.read_cons (c : Host.Cell) (m : Memory) (a : Nat) :
    Memory.read (c :: m) a = if c.1 = a then c.2 else Memory.read m a := by
  by_cases h : c.1 = a <;> simp [Memory.read, h]

/-- Keeping the cells of some addresses: those read as before, the others as after cold reset. -/
theorem Memory.read_filter (keep : Nat → Bool) (m : Memory) (a : Nat) :
    Memory.read (m.filter fun c => keep c.1) a = if keep a then Memory.read m a else unwritten a := by
  induction m with
  | nil => simp
  | cons c m ih =>
    by_cases hk : keep c.1 <;> by_cases hc : c.1 = a
    · subst hc; simp [hk, Memory.read_cons]
    · simp [hk, Memory.read_cons, hc, ih]
    · subst hc; simp [hk, ih]
    · simp [hk, Memory.read_cons, hc, ih]

theorem Memory.read_erase (m : Memory) (a a' : Nat) :
    (Memory.erase m a).read a' = if a' = a then unwritten a' else m.read a' := by
  have := Memory.read_filter (fun k => k != a) m a'
  simp only [Memory.erase, this]
  by_cases h : a' = a <;> simp [h]

theorem Memory.read_insert (m : Memory) (a a' : Nat) (b : Byte) :
    (Memory.insert m a b).read a' = if a' = a then b else m.read a' := by
  induction m with
  | nil => simp [Memory.insert, Memory.read_cons, eq_comm (a := a)]
  | cons c m ih =>
    simp only [Memory.insert]
    split
    · simp only [Memory.read_cons, eq_comm (a := a)]
    · split
      · simp only [Memory.read_cons, eq_comm (a := a)]
        split
        · rfl
        · rw [if_neg (by omega)]
      · rw [Memory.read_cons, ih, Memory.read_cons]
        split <;> split <;> first | rfl | omega

/-- Read after write: the written address gives the byte, every other address reads as before. -/
@[simp] theorem Memory.read_write (m : Memory) (a a' : Nat) (b : Byte) :
    (Memory.write m a b).read a' = if a' = a then b else m.read a' := by
  unfold Memory.write
  split
  · next h => rw [Memory.read_erase]; split <;> simp_all
  · exact Memory.read_insert m a a' b

/-- Outside the written run every address reads as before. -/
theorem Memory.read_writeAll_other (m : Memory) (bs : List Byte) (a a' : Nat)
    (h : a' < a ∨ a + bs.length ≤ a') : (m.writeAll a bs).read a' = m.read a' := by
  induction bs generalizing m a with
  | nil => rfl
  | cons b bs ih =>
    simp only [List.length_cons] at h
    rw [Memory.writeAll, ih _ _ (by omega), Memory.read_write, if_neg (by omega)]

/-- Byte `k` of the written run is byte `k` of the list. -/
theorem Memory.read_writeAll_at (m : Memory) (bs : List Byte) (a k : Nat) (h : k < bs.length) :
    (m.writeAll a bs).read (a + k) = bs[k] := by
  induction bs generalizing m a k with
  | nil => simp at h
  | cons b bs ih =>
    rw [Memory.writeAll]
    cases k with
    | zero => rw [Memory.read_writeAll_other _ _ _ _ (by omega)]; simp
    | succ k =>
      have := ih (Memory.write m a b) (a + 1) k (by simpa using h)
      rw [show a + (k + 1) = a + 1 + k by omega, this]; rfl

@[simp] theorem Memory.read_clearProgram (m : Memory) (a : Nat) :
    m.clearProgram.read a = if a < 0x200 then m.read a else 0 := by
  have := Memory.read_filter (fun k => decide (k < 0x200)) m a
  simp only [Memory.clearProgram, this, decide_eq_true_eq]
  split
  · rfl
  · exact unwritten_program (by omega)

@[simp] theorem Memory.read_restoreFont (m : Memory) (a : Nat) :
    m.restoreFont.read a = if inFont a then unwritten a else m.read a := by
  have := Memory.read_filter (fun k => !inFont k) m a
  simp only [Memory.restoreFont, this]
  by_cases h : inFont a <;> simp [h]

/-- The canonical form of memory with nothing listed. -/
theorem Memory.wf_nil : Memory.wf [] := by simp [Memory.wf]

/-- Keeping some cells keeps the canonical form. -/
theorem Memory.wf_filter {m : Memory} (h : m.wf) (p : Host.Cell → Bool) : Memory.wf (m.filter p) :=
  ⟨h.1.filter p, fun c hc => h.2 c (List.mem_of_mem_filter hc)⟩

theorem Memory.mem_insert {m : Memory} {a : Nat} {b : Byte} {c : Host.Cell} (h : c ∈ Memory.insert m a b) :
    c = (a, b) ∨ c ∈ m := by
  induction m with
  | nil => simpa [Memory.insert] using h
  | cons d m ih =>
    simp only [Memory.insert] at h
    split at h
    · simpa using h
    · split at h
      · simp at h; tauto
      · simp at h; rcases h with h | h
        · simp [h]
        · rcases ih h with h | h <;> simp [h]

theorem Memory.pairwise_insert {m : Memory} {a : Nat} {b : Byte} (h : m.Pairwise (fun c d => c.1 < d.1)) :
    (Memory.insert m a b).Pairwise (fun c d => c.1 < d.1) := by
  induction m with
  | nil => simp [Memory.insert]
  | cons d m ih =>
    have ⟨hd, hm⟩ := List.pairwise_cons.mp h
    simp only [Memory.insert]
    split
    · next hlt =>
      refine List.pairwise_cons.mpr ⟨?_, h⟩
      intro c hc
      rcases List.mem_cons.mp hc with rfl | hc
      · exact hlt
      · exact Nat.lt_trans hlt (hd c hc)
    · split
      · next heq => exact List.pairwise_cons.mpr ⟨fun c hc => heq ▸ hd c hc, hm⟩
      · refine List.pairwise_cons.mpr ⟨?_, ih hm⟩
        intro c hc
        rcases Memory.mem_insert hc with rfl | hc
        · show d.1 < a
          omega
        · exact hd c hc

/-- A write inside memory keeps the canonical form. -/
theorem Memory.wf_write {m : Memory} (h : m.wf) {a : Nat} (ha : a < 4096) (b : Byte) :
    Memory.wf (Memory.write m a b) := by
  unfold Memory.write
  split
  · exact Memory.wf_filter h _
  · next hb =>
    refine ⟨Memory.pairwise_insert h.1, fun c hc => ?_⟩
    rcases Memory.mem_insert hc with rfl | hc
    · exact ⟨ha, hb⟩
    · exact h.2 c hc

/-- Writing a run inside memory keeps the canonical form. -/
theorem Memory.wf_writeAll {m : Memory} (h : m.wf) (bs : List Byte) (a : Nat) (ha : a + bs.length ≤ 4096) :
    Memory.wf (m.writeAll a bs) := by
  induction bs generalizing m a with
  | nil => exact h
  | cons b bs ih =>
    simp only [List.length_cons] at ha
    exact ih (Memory.wf_write h (by omega) b) (a + 1) (by omega)

theorem Memory.wf_clearProgram {m : Memory} (h : m.wf) : m.clearProgram.wf := Memory.wf_filter h _

theorem Memory.wf_restoreFont {m : Memory} (h : m.wf) : m.restoreFont.wf := Memory.wf_filter h _

/-- Everything a load can answer: in range, the bytes; else the fault of the lowest bad address. -/
theorem Memory.load_cases (m : Memory) (base n : Nat) :
    (InRange base n ∧ m.load base n = .ok ((List.range n).map fun k => m.read (base + k))) ∨
    (¬ InRange base n ∧ m.load base n = .error (rangeFault base)) := by
  unfold Memory.load
  split <;> simp [*]

/-- Everything a store can answer: in range, the written memory; else the fault of the lowest bad address. -/
theorem Memory.store_cases (m : Memory) (base : Nat) (bs : List Byte) :
    (InRange base bs.length ∧ m.store base bs = .ok (m.writeAll base bs)) ∨
    (¬ InRange base bs.length ∧ m.store base bs = .error (rangeFault base)) := by
  unfold Memory.store
  split <;> simp [*]

/-- A store that succeeds keeps the canonical form. -/
theorem Memory.wf_store {m m' : Memory} (h : m.wf) {base : Nat} {bs : List Byte} (hs : m.store base bs = .ok m') :
    m'.wf := by
  rcases Memory.store_cases m base bs with ⟨hr, he⟩ | ⟨-, he⟩
  · rw [he] at hs
    cases hs
    rcases hr with hr | hr
    · rw [List.length_eq_zero_iff] at hr; subst hr; exact h
    · exact Memory.wf_writeAll h bs base hr
  · rw [he] at hs; cases hs

end Sys2Proof.Machine
end

