-- ==== Sys2Proof/Laws/State.lean ====
section
/-! SUPPORT. One lemma per field per update of the state, each true by unfolding the update, so that no later proof
unfolds a record update; then what a register reads as after an update. -/

namespace Sys2Proof.Machine

section setVFields
variable (s : State) (x : RegId) (b : Byte)

@[simp] theorem State.setV_v : (s.setV x b).v = s.v.set x.val b := rfl
@[simp] theorem State.setV_i : (s.setV x b).i = s.i := rfl
@[simp] theorem State.setV_pc : (s.setV x b).pc = s.pc := rfl
@[simp] theorem State.setV_stack : (s.setV x b).stack = s.stack := rfl
@[simp] theorem State.setV_sp : (s.setV x b).sp = s.sp := rfl
@[simp] theorem State.setV_dt : (s.setV x b).dt = s.dt := rfl
@[simp] theorem State.setV_st : (s.setV x b).st = s.st := rfl
@[simp] theorem State.setV_mem : (s.setV x b).mem = s.mem := rfl
@[simp] theorem State.setV_fb : (s.setV x b).fb = s.fb := rfl
@[simp] theorem State.setV_awaitingKey : (s.setV x b).awaitingKey = s.awaitingKey := rfl
@[simp] theorem State.setV_keyDest : (s.setV x b).keyDest = s.keyDest := rfl
@[simp] theorem State.setV_keyPrev : (s.setV x b).keyPrev = s.keyPrev := rfl
@[simp] theorem State.setV_terminated : (s.setV x b).terminated = s.terminated := rfl
@[simp] theorem State.setV_fault : (s.setV x b).fault = s.fault := rfl
@[simp] theorem State.setV_keys : (s.setV x b).keys = s.keys := rfl
@[simp] theorem State.setV_pause : (s.setV x b).pause = s.pause := rfl
@[simp] theorem State.setV_quirkLoadStore : (s.setV x b).quirkLoadStore = s.quirkLoadStore := rfl
@[simp] theorem State.setV_quirkShift : (s.setV x b).quirkShift = s.quirkShift := rfl
@[simp] theorem State.setV_vwrap : (s.setV x b).vwrap = s.vwrap := rfl
@[simp] theorem State.setV_romImage : (s.setV x b).romImage = s.romImage := rfl
@[simp] theorem State.setV_rndCount : (s.setV x b).rndCount = s.rndCount := rfl
@[simp] theorem State.setV_logOut : (s.setV x b).logOut = s.logOut := rfl
@[simp] theorem State.setV_script : (s.setV x b).script = s.script := rfl

end setVFields

section setIFields
variable (s : State) (w : Word)

@[simp] theorem State.setI_v : (s.setI w).v = s.v := rfl
@[simp] theorem State.setI_i : (s.setI w).i = w := rfl
@[simp] theorem State.setI_pc : (s.setI w).pc = s.pc := rfl
@[simp] theorem State.setI_stack : (s.setI w).stack = s.stack := rfl
@[simp] theorem State.setI_sp : (s.setI w).sp = s.sp := rfl
@[simp] theorem State.setI_dt : (s.setI w).dt = s.dt := rfl
@[simp] theorem State.setI_st : (s.setI w).st = s.st := rfl
@[simp] theorem State.setI_mem : (s.setI w).mem = s.mem := rfl
@[simp] theorem State.setI_fb : (s.setI w).fb = s.fb := rfl
@[simp] theorem State.setI_awaitingKey : (s.setI w).awaitingKey = s.awaitingKey := rfl
@[simp] theorem State.setI_keyDest : (s.setI w).keyDest = s.keyDest := rfl
@[simp] theorem State.setI_keyPrev : (s.setI w).keyPrev = s.keyPrev := rfl
@[simp] theorem State.setI_terminated : (s.setI w).terminated = s.terminated := rfl
@[simp] theorem State.setI_fault : (s.setI w).fault = s.fault := rfl
@[simp] theorem State.setI_keys : (s.setI w).keys = s.keys := rfl
@[simp] theorem State.setI_pause : (s.setI w).pause = s.pause := rfl
@[simp] theorem State.setI_quirkLoadStore : (s.setI w).quirkLoadStore = s.quirkLoadStore := rfl
@[simp] theorem State.setI_quirkShift : (s.setI w).quirkShift = s.quirkShift := rfl
@[simp] theorem State.setI_vwrap : (s.setI w).vwrap = s.vwrap := rfl
@[simp] theorem State.setI_romImage : (s.setI w).romImage = s.romImage := rfl
@[simp] theorem State.setI_rndCount : (s.setI w).rndCount = s.rndCount := rfl
@[simp] theorem State.setI_logOut : (s.setI w).logOut = s.logOut := rfl
@[simp] theorem State.setI_script : (s.setI w).script = s.script := rfl

end setIFields

section setPcFields
variable (s : State) (w : Word)

@[simp] theorem State.setPc_v : (s.setPc w).v = s.v := rfl
@[simp] theorem State.setPc_i : (s.setPc w).i = s.i := rfl
@[simp] theorem State.setPc_pc : (s.setPc w).pc = w := rfl
@[simp] theorem State.setPc_stack : (s.setPc w).stack = s.stack := rfl
@[simp] theorem State.setPc_sp : (s.setPc w).sp = s.sp := rfl
@[simp] theorem State.setPc_dt : (s.setPc w).dt = s.dt := rfl
@[simp] theorem State.setPc_st : (s.setPc w).st = s.st := rfl
@[simp] theorem State.setPc_mem : (s.setPc w).mem = s.mem := rfl
@[simp] theorem State.setPc_fb : (s.setPc w).fb = s.fb := rfl
@[simp] theorem State.setPc_awaitingKey : (s.setPc w).awaitingKey = s.awaitingKey := rfl
@[simp] theorem State.setPc_keyDest : (s.setPc w).keyDest = s.keyDest := rfl
@[simp] theorem State.setPc_keyPrev : (s.setPc w).keyPrev = s.keyPrev := rfl
@[simp] theorem State.setPc_terminated : (s.setPc w).terminated = s.terminated := rfl
@[simp] theorem State.setPc_fault : (s.setPc w).fault = s.fault := rfl
@[simp] theorem State.setPc_keys : (s.setPc w).keys = s.keys := rfl
@[simp] theorem State.setPc_pause : (s.setPc w).pause = s.pause := rfl
@[simp] theorem State.setPc_quirkLoadStore : (s.setPc w).quirkLoadStore = s.quirkLoadStore := rfl
@[simp] theorem State.setPc_quirkShift : (s.setPc w).quirkShift = s.quirkShift := rfl
@[simp] theorem State.setPc_vwrap : (s.setPc w).vwrap = s.vwrap := rfl
@[simp] theorem State.setPc_romImage : (s.setPc w).romImage = s.romImage := rfl
@[simp] theorem State.setPc_rndCount : (s.setPc w).rndCount = s.rndCount := rfl
@[simp] theorem State.setPc_logOut : (s.setPc w).logOut = s.logOut := rfl
@[simp] theorem State.setPc_script : (s.setPc w).script = s.script := rfl

end setPcFields

section setMemFields
variable (s : State) (m : Memory)

@[simp] theorem State.setMem_v : (s.setMem m).v = s.v := rfl
@[simp] theorem State.setMem_i : (s.setMem m).i = s.i := rfl
@[simp] theorem State.setMem_pc : (s.setMem m).pc = s.pc := rfl
@[simp] theorem State.setMem_stack : (s.setMem m).stack = s.stack := rfl
@[simp] theorem State.setMem_sp : (s.setMem m).sp = s.sp := rfl
@[simp] theorem State.setMem_dt : (s.setMem m).dt = s.dt := rfl
@[simp] theorem State.setMem_st : (s.setMem m).st = s.st := rfl
@[simp] theorem State.setMem_mem : (s.setMem m).mem = m := rfl
@[simp] theorem State.setMem_fb : (s.setMem m).fb = s.fb := rfl
@[simp] theorem State.setMem_awaitingKey : (s.setMem m).awaitingKey = s.awaitingKey := rfl
@[simp] theorem State.setMem_keyDest : (s.setMem m).keyDest = s.keyDest := rfl
@[simp] theorem State.setMem_keyPrev : (s.setMem m).keyPrev = s.keyPrev := rfl
@[simp] theorem State.setMem_terminated : (s.setMem m).terminated = s.terminated := rfl
@[simp] theorem State.setMem_fault : (s.setMem m).fault = s.fault := rfl
@[simp] theorem State.setMem_keys : (s.setMem m).keys = s.keys := rfl
@[simp] theorem State.setMem_pause : (s.setMem m).pause = s.pause := rfl
@[simp] theorem State.setMem_quirkLoadStore : (s.setMem m).quirkLoadStore = s.quirkLoadStore := rfl
@[simp] theorem State.setMem_quirkShift : (s.setMem m).quirkShift = s.quirkShift := rfl
@[simp] theorem State.setMem_vwrap : (s.setMem m).vwrap = s.vwrap := rfl
@[simp] theorem State.setMem_romImage : (s.setMem m).romImage = s.romImage := rfl
@[simp] theorem State.setMem_rndCount : (s.setMem m).rndCount = s.rndCount := rfl
@[simp] theorem State.setMem_logOut : (s.setMem m).logOut = s.logOut := rfl
@[simp] theorem State.setMem_script : (s.setMem m).script = s.script := rfl

end setMemFields

section setFbFields
variable (s : State) (f : Frame)

@[simp] theorem State.setFb_v : (s.setFb f).v = s.v := rfl
@[simp] theorem State.setFb_i : (s.setFb f).i = s.i := rfl
@[simp] theorem State.setFb_pc : (s.setFb f).pc = s.pc := rfl
@[simp] theorem State.setFb_stack : (s.setFb f).stack = s.stack := rfl
@[simp] theorem State.setFb_sp : (s.setFb f).sp = s.sp := rfl
@[simp] theorem State.setFb_dt : (s.setFb f).dt = s.dt := rfl
@[simp] theorem State.setFb_st : (s.setFb f).st = s.st := rfl
@[simp] theorem State.setFb_mem : (s.setFb f).mem = s.mem := rfl
@[simp] theorem State.setFb_fb : (s.setFb f).fb = f := rfl
@[simp] theorem State.setFb_awaitingKey : (s.setFb f).awaitingKey = s.awaitingKey := rfl
@[simp] theorem State.setFb_keyDest : (s.setFb f).keyDest = s.keyDest := rfl
@[simp] theorem State.setFb_keyPrev : (s.setFb f).keyPrev = s.keyPrev := rfl
@[simp] theorem State.setFb_terminated : (s.setFb f).terminated = s.terminated := rfl
@[simp] theorem State.setFb_fault : (s.setFb f).fault = s.fault := rfl
@[simp] theorem State.setFb_keys : (s.setFb f).keys = s.keys := rfl
@[simp] theorem State.setFb_pause : (s.setFb f).pause = s.pause := rfl
@[simp] theorem State.setFb_quirkLoadStore : (s.setFb f).quirkLoadStore = s.quirkLoadStore := rfl
@[simp] theorem State.setFb_quirkShift : (s.setFb f).quirkShift = s.quirkShift := rfl
@[simp] theorem State.setFb_vwrap : (s.setFb f).vwrap = s.vwrap := rfl
@[simp] theorem State.setFb_romImage : (s.setFb f).romImage = s.romImage := rfl
@[simp] theorem State.setFb_rndCount : (s.setFb f).rndCount = s.rndCount := rfl
@[simp] theorem State.setFb_logOut : (s.setFb f).logOut = s.logOut := rfl
@[simp] theorem State.setFb_script : (s.setFb f).script = s.script := rfl

end setFbFields

section setDtFields
variable (s : State) (b : Byte)

@[simp] theorem State.setDt_v : (s.setDt b).v = s.v := rfl
@[simp] theorem State.setDt_i : (s.setDt b).i = s.i := rfl
@[simp] theorem State.setDt_pc : (s.setDt b).pc = s.pc := rfl
@[simp] theorem State.setDt_stack : (s.setDt b).stack = s.stack := rfl
@[simp] theorem State.setDt_sp : (s.setDt b).sp = s.sp := rfl
@[simp] theorem State.setDt_dt : (s.setDt b).dt = b := rfl
@[simp] theorem State.setDt_st : (s.setDt b).st = s.st := rfl
@[simp] theorem State.setDt_mem : (s.setDt b).mem = s.mem := rfl
@[simp] theorem State.setDt_fb : (s.setDt b).fb = s.fb := rfl
@[simp] theorem State.setDt_awaitingKey : (s.setDt b).awaitingKey = s.awaitingKey := rfl
@[simp] theorem State.setDt_keyDest : (s.setDt b).keyDest = s.keyDest := rfl
@[simp] theorem State.setDt_keyPrev : (s.setDt b).keyPrev = s.keyPrev := rfl
@[simp] theorem State.setDt_terminated : (s.setDt b).terminated = s.terminated := rfl
@[simp] theorem State.setDt_fault : (s.setDt b).fault = s.fault := rfl
@[simp] theorem State.setDt_keys : (s.setDt b).keys = s.keys := rfl
@[simp] theorem State.setDt_pause : (s.setDt b).pause = s.pause := rfl
@[simp] theorem State.setDt_quirkLoadStore : (s.setDt b).quirkLoadStore = s.quirkLoadStore := rfl
@[simp] theorem State.setDt_quirkShift : (s.setDt b).quirkShift = s.quirkShift := rfl
@[simp] theorem State.setDt_vwrap : (s.setDt b).vwrap = s.vwrap := rfl
@[simp] theorem State.setDt_romImage : (s.setDt b).romImage = s.romImage := rfl
@[simp] theorem State.setDt_rndCount : (s.setDt b).rndCount = s.rndCount := rfl
@[simp] theorem State.setDt_logOut : (s.setDt b).logOut = s.logOut := rfl
@[simp] theorem State.setDt_script : (s.setDt b).script = s.script := rfl

end setDtFields

section setStFields
variable (s : State) (b : Byte)

@[simp] theorem State.setSt_v : (s.setSt b).v = s.v := rfl
@[simp] theorem State.setSt_i : (s.setSt b).i = s.i := rfl
@[simp] theorem State.setSt_pc : (s.setSt b).pc = s.pc := rfl
@[simp] theorem State.setSt_stack : (s.setSt b).stack = s.stack := rfl
@[simp] theorem State.setSt_sp : (s.setSt b).sp = s.sp := rfl
@[simp] theorem State.setSt_dt : (s.setSt b).dt = s.dt := rfl
@[simp] theorem State.setSt_st : (s.setSt b).st = b := rfl
@[simp] theorem State.setSt_mem : (s.setSt b).mem = s.mem := rfl
@[simp] theorem State.setSt_fb : (s.setSt b).fb = s.fb := rfl
@[simp] theorem State.setSt_awaitingKey : (s.setSt b).awaitingKey = s.awaitingKey := rfl
@[simp] theorem State.setSt_keyDest : (s.setSt b).keyDest = s.keyDest := rfl
@[simp] theorem State.setSt_keyPrev : (s.setSt b).keyPrev = s.keyPrev := rfl
@[simp] theorem State.setSt_terminated : (s.setSt b).terminated = s.terminated := rfl
@[simp] theorem State.setSt_fault : (s.setSt b).fault = s.fault := rfl
@[simp] theorem State.setSt_keys : (s.setSt b).keys = s.keys := rfl
@[simp] theorem State.setSt_pause : (s.setSt b).pause = s.pause := rfl
@[simp] theorem State.setSt_quirkLoadStore : (s.setSt b).quirkLoadStore = s.quirkLoadStore := rfl
@[simp] theorem State.setSt_quirkShift : (s.setSt b).quirkShift = s.quirkShift := rfl
@[simp] theorem State.setSt_vwrap : (s.setSt b).vwrap = s.vwrap := rfl
@[simp] theorem State.setSt_romImage : (s.setSt b).romImage = s.romImage := rfl
@[simp] theorem State.setSt_rndCount : (s.setSt b).rndCount = s.rndCount := rfl
@[simp] theorem State.setSt_logOut : (s.setSt b).logOut = s.logOut := rfl
@[simp] theorem State.setSt_script : (s.setSt b).script = s.script := rfl

end setStFields

section raiseFields
variable (s : State) (r : Raise)

@[simp] theorem State.raise_v : (s.raise r).v = s.v := rfl
@[simp] theorem State.raise_i : (s.raise r).i = s.i := rfl
@[simp] theorem State.raise_pc : (s.raise r).pc = s.pc := rfl
@[simp] theorem State.raise_stack : (s.raise r).stack = s.stack := rfl
@[simp] theorem State.raise_sp : (s.raise r).sp = s.sp := rfl
@[simp] theorem State.raise_dt : (s.raise r).dt = s.dt := rfl
@[simp] theorem State.raise_st : (s.raise r).st = s.st := rfl
@[simp] theorem State.raise_mem : (s.raise r).mem = s.mem := rfl
@[simp] theorem State.raise_fb : (s.raise r).fb = s.fb := rfl
@[simp] theorem State.raise_awaitingKey : (s.raise r).awaitingKey = s.awaitingKey := rfl
@[simp] theorem State.raise_keyDest : (s.raise r).keyDest = s.keyDest := rfl
@[simp] theorem State.raise_keyPrev : (s.raise r).keyPrev = s.keyPrev := rfl
@[simp] theorem State.raise_terminated : (s.raise r).terminated = true := rfl
@[simp] theorem State.raise_fault : (s.raise r).fault = raiseCode r := rfl
@[simp] theorem State.raise_keys : (s.raise r).keys = s.keys := rfl
@[simp] theorem State.raise_pause : (s.raise r).pause = s.pause := rfl
@[simp] theorem State.raise_quirkLoadStore : (s.raise r).quirkLoadStore = s.quirkLoadStore := rfl
@[simp] theorem State.raise_quirkShift : (s.raise r).quirkShift = s.quirkShift := rfl
@[simp] theorem State.raise_vwrap : (s.raise r).vwrap = s.vwrap := rfl
@[simp] theorem State.raise_romImage : (s.raise r).romImage = s.romImage := rfl
@[simp] theorem State.raise_rndCount : (s.raise r).rndCount = s.rndCount := rfl
@[simp] theorem State.raise_logOut : (s.raise r).logOut = s.logOut := rfl
@[simp] theorem State.raise_script : (s.raise r).script = s.script := rfl

end raiseFields

section logUnknownFields
variable (s : State) (op addr : Word)

@[simp] theorem State.logUnknown_v : (s.logUnknown op addr).v = s.v := rfl
@[simp] theorem State.logUnknown_i : (s.logUnknown op addr).i = s.i := rfl
@[simp] theorem State.logUnknown_pc : (s.logUnknown op addr).pc = s.pc := rfl
@[simp] theorem State.logUnknown_stack : (s.logUnknown op addr).stack = s.stack := rfl
@[simp] theorem State.logUnknown_sp : (s.logUnknown op addr).sp = s.sp := rfl
@[simp] theorem State.logUnknown_dt : (s.logUnknown op addr).dt = s.dt := rfl
@[simp] theorem State.logUnknown_st : (s.logUnknown op addr).st = s.st := rfl
@[simp] theorem State.logUnknown_mem : (s.logUnknown op addr).mem = s.mem := rfl
@[simp] theorem State.logUnknown_fb : (s.logUnknown op addr).fb = s.fb := rfl
@[simp] theorem State.logUnknown_awaitingKey : (s.logUnknown op addr).awaitingKey = s.awaitingKey := rfl
@[simp] theorem State.logUnknown_keyDest : (s.logUnknown op addr).keyDest = s.keyDest := rfl
@[simp] theorem State.logUnknown_keyPrev : (s.logUnknown op addr).keyPrev = s.keyPrev := rfl
@[simp] theorem State.logUnknown_terminated : (s.logUnknown op addr).terminated = s.terminated := rfl
@[simp] theorem State.logUnknown_fault : (s.logUnknown op addr).fault = s.fault := rfl
@[simp] theorem State.logUnknown_keys : (s.logUnknown op addr).keys = s.keys := rfl
@[simp] theorem State.logUnknown_pause : (s.logUnknown op addr).pause = s.pause := rfl
@[simp] theorem State.logUnknown_quirkLoadStore : (s.logUnknown op addr).quirkLoadStore = s.quirkLoadStore := rfl
@[simp] theorem State.logUnknown_quirkShift : (s.logUnknown op addr).quirkShift = s.quirkShift := rfl
@[simp] theorem State.logUnknown_vwrap : (s.logUnknown op addr).vwrap = s.vwrap := rfl
@[simp] theorem State.logUnknown_romImage : (s.logUnknown op addr).romImage = s.romImage := rfl
@[simp] theorem State.logUnknown_rndCount : (s.logUnknown op addr).rndCount = s.rndCount := rfl
@[simp] theorem State.logUnknown_logOut : (s.logUnknown op addr).logOut = ⟨op, addr⟩ :: s.logOut := rfl
@[simp] theorem State.logUnknown_script : (s.logUnknown op addr).script = s.script := rfl

end logUnknownFields

section countDrawFields
variable (s : State)

@[simp] theorem State.countDraw_v : (s.countDraw).v = s.v := rfl
@[simp] theorem State.countDraw_i : (s.countDraw).i = s.i := rfl
@[simp] theorem State.countDraw_pc : (s.countDraw).pc = s.pc := rfl
@[simp] theorem State.countDraw_stack : (s.countDraw).stack = s.stack := rfl
@[simp] theorem State.countDraw_sp : (s.countDraw).sp = s.sp := rfl
@[simp] theorem State.countDraw_dt : (s.countDraw).dt = s.dt := rfl
@[simp] theorem State.countDraw_st : (s.countDraw).st = s.st := rfl
@[simp] theorem State.countDraw_mem : (s.countDraw).mem = s.mem := rfl
@[simp] theorem State.countDraw_fb : (s.countDraw).fb = s.fb := rfl
@[simp] theorem State.countDraw_awaitingKey : (s.countDraw).awaitingKey = s.awaitingKey := rfl
@[simp] theorem State.countDraw_keyDest : (s.countDraw).keyDest = s.keyDest := rfl
@[simp] theorem State.countDraw_keyPrev : (s.countDraw).keyPrev = s.keyPrev := rfl
@[simp] theorem State.countDraw_terminated : (s.countDraw).terminated = s.terminated := rfl
@[simp] theorem State.countDraw_fault : (s.countDraw).fault = s.fault := rfl
@[simp] theorem State.countDraw_keys : (s.countDraw).keys = s.keys := rfl
@[simp] theorem State.countDraw_pause : (s.countDraw).pause = s.pause := rfl
@[simp] theorem State.countDraw_quirkLoadStore : (s.countDraw).quirkLoadStore = s.quirkLoadStore := rfl
@[simp] theorem State.countDraw_quirkShift : (s.countDraw).quirkShift = s.quirkShift := rfl
@[simp] theorem State.countDraw_vwrap : (s.countDraw).vwrap = s.vwrap := rfl
@[simp] theorem State.countDraw_romImage : (s.countDraw).romImage = s.romImage := rfl
@[simp] theorem State.countDraw_rndCount : (s.countDraw).rndCount = s.rndCount + 1 := rfl
@[simp] theorem State.countDraw_logOut : (s.countDraw).logOut = s.logOut := rfl
@[simp] theorem State.countDraw_script : (s.countDraw).script = s.script := rfl

end countDrawFields

section armKeyWaitFields
variable (s : State) (x : RegId)

@[simp] theorem State.armKeyWait_v : (s.armKeyWait x).v = s.v := rfl
@[simp] theorem State.armKeyWait_i : (s.armKeyWait x).i = s.i := rfl
@[simp] theorem State.armKeyWait_pc : (s.armKeyWait x).pc = s.pc := rfl
@[simp] theorem State.armKeyWait_stack : (s.armKeyWait x).stack = s.stack := rfl
@[simp] theorem State.armKeyWait_sp : (s.armKeyWait x).sp = s.sp := rfl
@[simp] theorem State.armKeyWait_dt : (s.armKeyWait x).dt = s.dt := rfl
@[simp] theorem State.armKeyWait_st : (s.armKeyWait x).st = s.st := rfl
@[simp] theorem State.armKeyWait_mem : (s.armKeyWait x).mem = s.mem := rfl
@[simp] theorem State.armKeyWait_fb : (s.armKeyWait x).fb = s.fb := rfl
@[simp] theorem State.armKeyWait_awaitingKey : (s.armKeyWait x).awaitingKey = true := rfl
@[simp] theorem State.armKeyWait_keyDest : (s.armKeyWait x).keyDest = x := rfl
@[simp] theorem State.armKeyWait_keyPrev : (s.armKeyWait x).keyPrev = s.keys := rfl
@[simp] theorem State.armKeyWait_terminated : (s.armKeyWait x).terminated = s.terminated := rfl
@[simp] theorem State.armKeyWait_fault : (s.armKeyWait x).fault = s.fault := rfl
@[simp] theorem State.armKeyWait_keys : (s.armKeyWait x).keys = s.keys := rfl
@[simp] theorem State.armKeyWait_pause : (s.armKeyWait x).pause = s.pause := rfl
@[simp] theorem State.armKeyWait_quirkLoadStore : (s.armKeyWait x).quirkLoadStore = s.quirkLoadStore := rfl
@[simp] theorem State.armKeyWait_quirkShift : (s.armKeyWait x).quirkShift = s.quirkShift := rfl
@[simp] theorem State.armKeyWait_vwrap : (s.armKeyWait x).vwrap = s.vwrap := rfl
@[simp] theorem State.armKeyWait_romImage : (s.armKeyWait x).romImage = s.romImage := rfl
@[simp] theorem State.armKeyWait_rndCount : (s.armKeyWait x).rndCount = s.rndCount := rfl
@[simp] theorem State.armKeyWait_logOut : (s.armKeyWait x).logOut = s.logOut := rfl
@[simp] theorem State.armKeyWait_script : (s.armKeyWait x).script = s.script := rfl

end armKeyWaitFields

section loadRegsFields
variable (s : State) (bs : List Byte)

@[simp] theorem State.loadRegs_v : (s.loadRegs bs).v = fillRegs s.v 0 bs := rfl
@[simp] theorem State.loadRegs_i : (s.loadRegs bs).i = s.i := rfl
@[simp] theorem State.loadRegs_pc : (s.loadRegs bs).pc = s.pc := rfl
@[simp] theorem State.loadRegs_stack : (s.loadRegs bs).stack = s.stack := rfl
@[simp] theorem State.loadRegs_sp : (s.loadRegs bs).sp = s.sp := rfl
@[simp] theorem State.loadRegs_dt : (s.loadRegs bs).dt = s.dt := rfl
@[simp] theorem State.loadRegs_st : (s.loadRegs bs).st = s.st := rfl
@[simp] theorem State.loadRegs_mem : (s.loadRegs bs).mem = s.mem := rfl
@[simp] theorem State.loadRegs_fb : (s.loadRegs bs).fb = s.fb := rfl
@[simp] theorem State.loadRegs_awaitingKey : (s.loadRegs bs).awaitingKey = s.awaitingKey := rfl
@[simp] theorem State.loadRegs_keyDest : (s.loadRegs bs).keyDest = s.keyDest := rfl
@[simp] theorem State.loadRegs_keyPrev : (s.loadRegs bs).keyPrev = s.keyPrev := rfl
@[simp] theorem State.loadRegs_terminated : (s.loadRegs bs).terminated = s.terminated := rfl
@[simp] theorem State.loadRegs_fault : (s.loadRegs bs).fault = s.fault := rfl
@[simp] theorem State.loadRegs_keys : (s.loadRegs bs).keys = s.keys := rfl
@[simp] theorem State.loadRegs_pause : (s.loadRegs bs).pause = s.pause := rfl
@[simp] theorem State.loadRegs_quirkLoadStore : (s.loadRegs bs).quirkLoadStore = s.quirkLoadStore := rfl
@[simp] theorem State.loadRegs_quirkShift : (s.loadRegs bs).quirkShift = s.quirkShift := rfl
@[simp] theorem State.loadRegs_vwrap : (s.loadRegs bs).vwrap = s.vwrap := rfl
@[simp] theorem State.loadRegs_romImage : (s.loadRegs bs).romImage = s.romImage := rfl
@[simp] theorem State.loadRegs_rndCount : (s.loadRegs bs).rndCount = s.rndCount := rfl
@[simp] theorem State.loadRegs_logOut : (s.loadRegs bs).logOut = s.logOut := rfl
@[simp] theorem State.loadRegs_script : (s.loadRegs bs).script = s.script := rfl

end loadRegsFields

section Registers
variable (s : State)

/-- The register file after a write: the written register has the value, every other keeps its own. -/
@[simp] theorem State.getV_setV (x r : RegId) (b : Byte) :
    (s.setV x b).getV r = if r = x then b else s.getV r := by
  simp only [State.getV, State.setV_v, Vector.getElem_set, eq_comm (a := x.val), Fin.val_inj]


@[simp] theorem State.getV_setI (w : Word) (r' : RegId) : (s.setI w).getV r' = s.getV r' := rfl
@[simp] theorem State.getV_setPc (w : Word) (r' : RegId) : (s.setPc w).getV r' = s.getV r' := rfl
@[simp] theorem State.getV_setMem (m : Memory) (r' : RegId) : (s.setMem m).getV r' = s.getV r' := rfl
@[simp] theorem State.getV_setFb (f : Frame) (r' : RegId) : (s.setFb f).getV r' = s.getV r' := rfl
@[simp] theorem State.getV_setDt (b : Byte) (r' : RegId) : (s.setDt b).getV r' = s.getV r' := rfl
@[simp] theorem State.getV_setSt (b : Byte) (r' : RegId) : (s.setSt b).getV r' = s.getV r' := rfl
@[simp] theorem State.getV_raise (r : Raise) (r' : RegId) : (s.raise r).getV r' = s.getV r' := rfl
@[simp] theorem State.getV_logUnknown (op addr : Word) (r' : RegId) : (s.logUnknown op addr).getV r' = s.getV r' := rfl
@[simp] theorem State.getV_countDraw (r' : RegId) : (s.countDraw).getV r' = s.getV r' := rfl
@[simp] theorem State.getV_armKeyWait (x : RegId) (r' : RegId) : (s.armKeyWait x).getV r' = s.getV r' := rfl

/-- The default advance is a pc update. -/
@[simp] theorem State.advance_eq : s.advance = s.setPc (s.pc + 2) := rfl

/-- The flag write is a write of VF. -/
@[simp] theorem State.setFlag_eq (f : Bool) : s.setFlag f = s.setV RegId.vf (flagByte f) := rfl

/-- Result first, flag last. -/
@[simp] theorem State.setResultFlag_eq (x : RegId) (b : Byte) (f : Bool) :
    s.setResultFlag x b f = (s.setV x b).setV RegId.vf (flagByte f) := rfl

/-- A skip is a pc update: 2 further when taken. -/
@[simp] theorem State.skipIf_eq (c : Bool) : s.skipIf c = s.setPc (if c then s.pc + 2 else s.pc) := by
  cases c <;> rfl

end Registers

end Sys2Proof.Machine
end

