-- ==== Sys2Proof/Laws/Ops.lean ====
section
/-! SUPPORT. One lemma per shared operation, saying once everything it can do. -/

namespace Sys2Proof.Machine

@[simp] theorem State.orRaise_ok {α : Type} (s : State) (a : α) (k : α → State) :
    s.orRaise (.ok a) k = .next (k a) := rfl

@[simp] theorem State.orRaise_error {α : Type} (s : State) (r : Raise) (k : α → State) :
    s.orRaise (.error r) k = .next (s.raise r) := rfl

/-- An instruction that may raise either does its effect or enters the fault from the state it began in. -/
theorem State.orRaise_cases {α : Type} {s t : State} {e : Except Raise α} {k : α → State}
    (h : s.orRaise e k = .next t) : (∃ a, e = .ok a ∧ t = k a) ∨ (∃ r, e = .error r ∧ t = s.raise r) := by
  cases e with
  | ok a => simp at h; exact .inl ⟨a, rfl, h.symm⟩
  | error r => simp at h; exact .inr ⟨r, rfl, h.symm⟩

/-- Everything a push can answer: below depth 16 the entry is written and `sp` counts it, else StackOverflow. -/
theorem State.push_cases (s : State) :
    (∃ h : s.sp.val < 16,
      s.push = .ok { s with stack := s.stack.set s.sp.val s.pc, sp := ⟨s.sp.val + 1, by omega⟩ }) ∨
    (s.sp = 16 ∧ s.push = .error (.stackOverflow (s.pc - 2))) := by
  by_cases h : s.sp.val < 16
  · exact .inl ⟨h, by simp [State.push, h]⟩
  · exact .inr ⟨by omega, by simp [State.push, h]⟩

/-- Everything a pop can answer: above depth 0 the top entry with `sp` one less, else StackUnderflow. -/
theorem State.pop_cases (s : State) :
    (∃ h : 0 < s.sp.val,
      s.pop = .ok (s.stack[s.sp.val - 1], { s with sp := ⟨s.sp.val - 1, by omega⟩ })) ∨
    (s.sp = 0 ∧ s.pop = .error (.stackUnderflow (s.pc - 2))) := by
  by_cases h : 0 < s.sp.val
  · exact .inl ⟨h, by simp [State.pop, h]⟩
  · exact .inr ⟨by omega, by simp [State.pop, h]⟩

/-- Everything the fetch can answer: the two bytes at pc, big-endian, or MemoryFault. -/
theorem State.fetch_cases (s : State) :
    (s.pc.toNat ≤ 4094 ∧
      s.fetch = .ok (wordOfBytes (s.mem.read s.pc.toNat) (s.mem.read (s.pc.toNat + 1)))) ∨
    (4094 < s.pc.toNat ∧ s.fetch = .error (rangeFault s.pc.toNat)) := by
  unfold State.fetch
  split
  · next h => exact .inl ⟨by simp [InRange] at h; omega, rfl⟩
  · next h => exact .inr ⟨by simp [InRange] at h; omega, rfl⟩

/-- A big-endian word as a number (20_memory.md R63). -/
theorem wordOfBytes_toNat (hi lo : Byte) : (wordOfBytes hi lo).toNat = 256 * hi.toNat + lo.toNat := by
  unfold wordOfBytes
  rw [BitVec.toNat_append, Nat.shiftLeft_eq, Nat.mul_comm, ← Nat.two_pow_add_eq_or_of_lt lo.isLt]

/-- The search for the lowest bit finds the lowest one in its window. -/
theorem lowestBitFrom_eq_some {w : BitVec 16} {j n k : Nat} :
    lowestBitFrom w j n = some k ↔
      (j ≤ k ∧ k < j + n) ∧ w.getLsbD k = true ∧ ∀ i, j ≤ i → i < k → w.getLsbD i = false := by
  induction n generalizing j with
  | zero => simp [lowestBitFrom]
  | succ n ih =>
    simp only [lowestBitFrom]
    split
    · next h =>
      constructor
      · rintro ⟨⟩
        exact ⟨by omega, h, fun i _ _ => by omega⟩
      · rintro ⟨hk, hb, hlow⟩
        by_cases hjk : j = k
        · rw [hjk]
        · have := hlow j (Nat.le_refl j) (by omega)
          simp [h] at this
    · next h =>
      rw [ih]
      constructor
      · rintro ⟨hk, hb, hlow⟩
        refine ⟨by omega, hb, fun i hi hik => ?_⟩
        by_cases hij : i = j
        · simpa [hij] using h
        · exact hlow i (by omega) hik
      · rintro ⟨hk, hb, hlow⟩
        have : j ≠ k := fun hjk => h (hjk ▸ hb)
        exact ⟨by omega, hb, fun i hi hik => hlow i (by omega) hik⟩

/-- The search finds nothing when no bit of its window is set. -/
theorem lowestBitFrom_eq_none {w : BitVec 16} {j n : Nat} :
    lowestBitFrom w j n = none ↔ ∀ i, j ≤ i → i < j + n → w.getLsbD i = false := by
  induction n generalizing j with
  | zero => simp [lowestBitFrom]; omega
  | succ n ih =>
    simp only [lowestBitFrom]
    split
    · next h => simp; exact ⟨j, by omega, by omega, h⟩
    · next h =>
      rw [ih]
      constructor
      · intro hlow i hi hin
        by_cases hij : i = j
        · simpa [hij] using h
        · exact hlow i (by omega) (by omega)
      · exact fun hlow i hi hin => hlow i (by omega) (by omega)

theorem lowestKey_eq_some {w : BitVec 16} {k : Nat} :
    lowestKey w = some k ↔ k < 16 ∧ w.getLsbD k = true ∧ ∀ i, i < k → w.getLsbD i = false := by
  simp [lowestKey, lowestBitFrom_eq_some]

/-- No key is found only in the word without a set bit. -/
theorem lowestKey_eq_none {w : BitVec 16} : lowestKey w = none ↔ w = 0 := by
  constructor
  · intro h
    apply BitVec.eq_of_getLsbD_eq
    intro i hi
    simpa using lowestBitFrom_eq_none.mp h i (by omega) (by omega)
  · rintro rfl
    exact lowestBitFrom_eq_none.mpr (by simp)

/-- Filling registers from number `k` up: those within the list's run receive its bytes, the others keep theirs. -/
theorem fillRegs_getElem (bs : List Byte) (v : Vector Byte 16) (k r : Nat) (hr : r < 16) :
    (fillRegs v k bs)[r] = if h : k ≤ r ∧ r < k + bs.length then bs[r - k]'(by omega) else v[r] := by
  induction bs generalizing v k with
  | nil => simp [fillRegs]
  | cons b bs ih =>
    rw [fillRegs, ih]
    simp only [List.length_cons, Vector.getElem_setIfInBounds hr]
    by_cases h1 : k + 1 ≤ r ∧ r < k + 1 + bs.length
    · rw [dif_pos h1, dif_pos (by omega)]
      have : r - k = (r - (k + 1)) + 1 := by omega
      simp [this]
    · rw [dif_neg h1]
      by_cases h2 : k = r
      · subst h2; simp
      · rw [if_neg h2, dif_neg (by omega)]

/-- A register dump stores X + 1 bytes. -/
@[simp] theorem State.dumpBytes_length (s : State) (x : RegId) : (s.dumpBytes x).length = x.val + 1 := by
  simp [State.dumpBytes]

/-- Byte `k` of a register dump is V[k]. -/
theorem State.dumpBytes_getElem (s : State) (x : RegId) (k : Nat) (h : k < (s.dumpBytes x).length) :
    (s.dumpBytes x)[k] = s.getV ⟨k, by simp at h; omega⟩ := by
  simp [State.dumpBytes, State.getV]

end Sys2Proof.Machine
end

