-- ==== Sys2Proof/Laws/PerInstr.lean ====
section
/-! SUPPORT. Per instruction, as syntax: its encoding selects a row of the opcode map whose fields give it back. -/

namespace Sys2Proof.Laws.EncodesToItsRow

/-- The word of the instruction selects a row of the opcode map (30_encoding.md R94), and the fields that the row reads
from the word are the instruction's operands. -/
def Statement (i : Instr) : Prop := ∃ r ∈ opcodeMap, r.selects (encode i) = true ∧ r.build (encode i) = i

theorem cls : Statement (.cls) :=
  ⟨⟨0xFFFF, 0x00E0, fun _ => .cls⟩, by simp [opcodeMap, rowsLow, rowsAlu, rowsMid, rowsHigh], by decide,
    by simp⟩

theorem ret : Statement (.ret) :=
  ⟨⟨0xFFFF, 0x00EE, fun _ => .ret⟩, by simp [opcodeMap, rowsLow, rowsAlu, rowsMid, rowsHigh], by decide,
    by simp⟩

theorem jpNnn (nnn : BitVec 12) : Statement (.jpNnn nnn) :=
  ⟨⟨0xF000, 0x1000, fun op => .jpNnn (fieldNNN op)⟩, by simp [opcodeMap, rowsLow, rowsAlu, rowsMid, rowsHigh], by
    simp only [OpcodeRow.selects, encode, encodeNNN_and_class]; decide,
    by simp [encode]⟩

theorem callNnn (nnn : BitVec 12) : Statement (.callNnn nnn) :=
  ⟨⟨0xF000, 0x2000, fun op => .callNnn (fieldNNN op)⟩, by simp [opcodeMap, rowsLow, rowsAlu, rowsMid, rowsHigh], by
    simp only [OpcodeRow.selects, encode, encodeNNN_and_class]; decide,
    by simp [encode]⟩

theorem seVxNn (x : RegId) (nn : Byte) : Statement (.seVxNn x nn) :=
  ⟨⟨0xF000, 0x3000, fun op => .seVxNn (fieldX op) (fieldNN op)⟩, by simp [opcodeMap, rowsLow, rowsAlu, rowsMid, rowsHigh], by
    simp only [OpcodeRow.selects, encode, encodeXNN_and_class]; decide,
    by simp [encode]⟩

theorem sneVxNn (x : RegId) (nn : Byte) : Statement (.sneVxNn x nn) :=
  ⟨⟨0xF000, 0x4000, fun op => .sneVxNn (fieldX op) (fieldNN op)⟩, by simp [opcodeMap, rowsLow, rowsAlu, rowsMid, rowsHigh], by
    simp only [OpcodeRow.selects, encode, encodeXNN_and_class]; decide,
    by simp [encode]⟩

theorem seVxVy (x y : RegId) : Statement (.seVxVy x y) :=
  ⟨⟨0xF00F, 0x5000, fun op => .seVxVy (fieldX op) (fieldY op)⟩, by simp [opcodeMap, rowsLow, rowsAlu, rowsMid, rowsHigh], by
    simp only [OpcodeRow.selects, encode, encodeXYN_and_sub]; decide,
    by simp [encode]⟩

theorem ldVxNn (x : RegId) (nn : Byte) : Statement (.ldVxNn x nn) :=
  ⟨⟨0xF000, 0x6000, fun op => .ldVxNn (fieldX op) (fieldNN op)⟩, by simp [opcodeMap, rowsLow, rowsAlu, rowsMid, rowsHigh], by
    simp only [OpcodeRow.selects, encode, encodeXNN_and_class]; decide,
    by simp [encode]⟩

theorem addVxNn (x : RegId) (nn : Byte) : Statement (.addVxNn x nn) :=
  ⟨⟨0xF000, 0x7000, fun op => .addVxNn (fieldX op) (fieldNN op)⟩, by simp [opcodeMap, rowsLow, rowsAlu, rowsMid, rowsHigh], by
    simp only [OpcodeRow.selects, encode, encodeXNN_and_class]; decide,
    by simp [encode]⟩

theorem ldVxVy (x y : RegId) : Statement (.ldVxVy x y) :=
  ⟨⟨0xF00F, 0x8000, fun op => .ldVxVy (fieldX op) (fieldY op)⟩, by simp [opcodeMap, rowsLow, rowsAlu, rowsMid, rowsHigh], by
    simp only [OpcodeRow.selects, encode, encodeXYN_and_sub]; decide,
    by simp [encode]⟩

theorem orVxVy (x y : RegId) : Statement (.orVxVy x y) :=
  ⟨⟨0xF00F, 0x8001, fun op => .orVxVy (fieldX op) (fieldY op)⟩, by simp [opcodeMap, rowsLow, rowsAlu, rowsMid, rowsHigh], by
    simp only [OpcodeRow.selects, encode, encodeXYN_and_sub]; decide,
    by simp [encode]⟩

theorem andVxVy (x y : RegId) : Statement (.andVxVy x y) :=
  ⟨⟨0xF00F, 0x8002, fun op => .andVxVy (fieldX op) (fieldY op)⟩, by simp [opcodeMap, rowsLow, rowsAlu, rowsMid, rowsHigh], by
    simp only [OpcodeRow.selects, encode, encodeXYN_and_sub]; decide,
    by simp [encode]⟩

theorem xorVxVy (x y : RegId) : Statement (.xorVxVy x y) :=
  ⟨⟨0xF00F, 0x8003, fun op => .xorVxVy (fieldX op) (fieldY op)⟩, by simp [opcodeMap, rowsLow, rowsAlu, rowsMid, rowsHigh], by
    simp only [OpcodeRow.selects, encode, encodeXYN_and_sub]; decide,
    by simp [encode]⟩

theorem addVxVy (x y : RegId) : Statement (.addVxVy x y) :=
  ⟨⟨0xF00F, 0x8004, fun op => .addVxVy (fieldX op) (fieldY op)⟩, by simp [opcodeMap, rowsLow, rowsAlu, rowsMid, rowsHigh], by
    simp only [OpcodeRow.selects, encode, encodeXYN_and_sub]; decide,
    by simp [encode]⟩

theorem subVxVy (x y : RegId) : Statement (.subVxVy x y) :=
  ⟨⟨0xF00F, 0x8005, fun op => .subVxVy (fieldX op) (fieldY op)⟩, by simp [opcodeMap, rowsLow, rowsAlu, rowsMid, rowsHigh], by
    simp only [OpcodeRow.selects, encode, encodeXYN_and_sub]; decide,
    by simp [encode]⟩

theorem shrVxVy (x y : RegId) : Statement (.shrVxVy x y) :=
  ⟨⟨0xF00F, 0x8006, fun op => .shrVxVy (fieldX op) (fieldY op)⟩, by simp [opcodeMap, rowsLow, rowsAlu, rowsMid, rowsHigh], by
    simp only [OpcodeRow.selects, encode, encodeXYN_and_sub]; decide,
    by simp [encode]⟩

theorem subnVxVy (x y : RegId) : Statement (.subnVxVy x y) :=
  ⟨⟨0xF00F, 0x8007, fun op => .subnVxVy (fieldX op) (fieldY op)⟩, by simp [opcodeMap, rowsLow, rowsAlu, rowsMid, rowsHigh], by
    simp only [OpcodeRow.selects, encode, encodeXYN_and_sub]; decide,
    by simp [encode]⟩

theorem shlVxVy (x y : RegId) : Statement (.shlVxVy x y) :=
  ⟨⟨0xF00F, 0x800E, fun op => .shlVxVy (fieldX op) (fieldY op)⟩, by simp [opcodeMap, rowsLow, rowsAlu, rowsMid, rowsHigh], by
    simp only [OpcodeRow.selects, encode, encodeXYN_and_sub]; decide,
    by simp [encode]⟩

theorem sneVxVy (x y : RegId) : Statement (.sneVxVy x y) :=
  ⟨⟨0xF00F, 0x9000, fun op => .sneVxVy (fieldX op) (fieldY op)⟩, by simp [opcodeMap, rowsLow, rowsAlu, rowsMid, rowsHigh], by
    simp only [OpcodeRow.selects, encode, encodeXYN_and_sub]; decide,
    by simp [encode]⟩

theorem ldINnn (nnn : BitVec 12) : Statement (.ldINnn nnn) :=
  ⟨⟨0xF000, 0xA000, fun op => .ldINnn (fieldNNN op)⟩, by simp [opcodeMap, rowsLow, rowsAlu, rowsMid, rowsHigh], by
    simp only [OpcodeRow.selects, encode, encodeNNN_and_class]; decide,
    by simp [encode]⟩

theorem jpV0Nnn (nnn : BitVec 12) : Statement (.jpV0Nnn nnn) :=
  ⟨⟨0xF000, 0xB000, fun op => .jpV0Nnn (fieldNNN op)⟩, by simp [opcodeMap, rowsLow, rowsAlu, rowsMid, rowsHigh], by
    simp only [OpcodeRow.selects, encode, encodeNNN_and_class]; decide,
    by simp [encode]⟩

theorem rndVxNn (x : RegId) (nn : Byte) : Statement (.rndVxNn x nn) :=
  ⟨⟨0xF000, 0xC000, fun op => .rndVxNn (fieldX op) (fieldNN op)⟩, by simp [opcodeMap, rowsLow, rowsAlu, rowsMid, rowsHigh], by
    simp only [OpcodeRow.selects, encode, encodeXNN_and_class]; decide,
    by simp [encode]⟩

theorem drwVxVyN (x y : RegId) (n : Fin 16) : Statement (.drwVxVyN x y n) :=
  ⟨⟨0xF000, 0xD000, fun op => .drwVxVyN (fieldX op) (fieldY op) (fieldN op)⟩, by simp [opcodeMap, rowsLow, rowsAlu, rowsMid, rowsHigh], by
    simp only [OpcodeRow.selects, encode, encodeXYN_and_class]; decide,
    by simp [encode]⟩

theorem skpVx (x : RegId) : Statement (.skpVx x) :=
  ⟨⟨0xF0FF, 0xE09E, fun op => .skpVx (fieldX op)⟩, by simp [opcodeMap, rowsLow, rowsAlu, rowsMid, rowsHigh], by
    simp only [OpcodeRow.selects, encode, encodeXNN_and_sub]; decide,
    by simp [encode]⟩

theorem sknpVx (x : RegId) : Statement (.sknpVx x) :=
  ⟨⟨0xF0FF, 0xE0A1, fun op => .sknpVx (fieldX op)⟩, by simp [opcodeMap, rowsLow, rowsAlu, rowsMid, rowsHigh], by
    simp only [OpcodeRow.selects, encode, encodeXNN_and_sub]; decide,
    by simp [encode]⟩

theorem ldVxDt (x : RegId) : Statement (.ldVxDt x) :=
  ⟨⟨0xF0FF, 0xF007, fun op => .ldVxDt (fieldX op)⟩, by simp [opcodeMap, rowsLow, rowsAlu, rowsMid, rowsHigh], by
    simp only [OpcodeRow.selects, encode, encodeXNN_and_sub]; decide,
    by simp [encode]⟩

theorem ldVxK (x : RegId) : Statement (.ldVxK x) :=
  ⟨⟨0xF0FF, 0xF00A, fun op => .ldVxK (fieldX op)⟩, by simp [opcodeMap, rowsLow, rowsAlu, rowsMid, rowsHigh], by
    simp only [OpcodeRow.selects, encode, encodeXNN_and_sub]; decide,
    by simp [encode]⟩

theorem ldDtVx (x : RegId) : Statement (.ldDtVx x) :=
  ⟨⟨0xF0FF, 0xF015, fun op => .ldDtVx (fieldX op)⟩, by simp [opcodeMap, rowsLow, rowsAlu, rowsMid, rowsHigh], by
    simp only [OpcodeRow.selects, encode, encodeXNN_and_sub]; decide,
    by simp [encode]⟩

theorem ldStVx (x : RegId) : Statement (.ldStVx x) :=
  ⟨⟨0xF0FF, 0xF018, fun op => .ldStVx (fieldX op)⟩, by simp [opcodeMap, rowsLow, rowsAlu, rowsMid, rowsHigh], by
    simp only [OpcodeRow.selects, encode, encodeXNN_and_sub]; decide,
    by simp [encode]⟩

theorem addIVx (x : RegId) : Statement (.addIVx x) :=
  ⟨⟨0xF0FF, 0xF01E, fun op => .addIVx (fieldX op)⟩, by simp [opcodeMap, rowsLow, rowsAlu, rowsMid, rowsHigh], by
    simp only [OpcodeRow.selects, encode, encodeXNN_and_sub]; decide,
    by simp [encode]⟩

theorem ldFVx (x : RegId) : Statement (.ldFVx x) :=
  ⟨⟨0xF0FF, 0xF029, fun op => .ldFVx (fieldX op)⟩, by simp [opcodeMap, rowsLow, rowsAlu, rowsMid, rowsHigh], by
    simp only [OpcodeRow.selects, encode, encodeXNN_and_sub]; decide,
    by simp [encode]⟩

theorem ldBVx (x : RegId) : Statement (.ldBVx x) :=
  ⟨⟨0xF0FF, 0xF033, fun op => .ldBVx (fieldX op)⟩, by simp [opcodeMap, rowsLow, rowsAlu, rowsMid, rowsHigh], by
    simp only [OpcodeRow.selects, encode, encodeXNN_and_sub]; decide,
    by simp [encode]⟩

theorem ldMemVx (x : RegId) : Statement (.ldMemVx x) :=
  ⟨⟨0xF0FF, 0xF055, fun op => .ldMemVx (fieldX op)⟩, by simp [opcodeMap, rowsLow, rowsAlu, rowsMid, rowsHigh], by
    simp only [OpcodeRow.selects, encode, encodeXNN_and_sub]; decide,
    by simp [encode]⟩

theorem ldVxMem (x : RegId) : Statement (.ldVxMem x) :=
  ⟨⟨0xF0FF, 0xF065, fun op => .ldVxMem (fieldX op)⟩, by simp [opcodeMap, rowsLow, rowsAlu, rowsMid, rowsHigh], by
    simp only [OpcodeRow.selects, encode, encodeXNN_and_sub]; decide,
    by simp [encode]⟩

end Sys2Proof.Laws.EncodesToItsRow
end

