-- ==== Sys2Proof/Laws/Safety.lean ====
section
/-! SUPPORT. The frame of each update: which parts of the state it leaves unchanged, and how frames compose. -/

namespace Sys2Proof.Machine

theorem Part.same_refl (p : Part) (s : State) : p.same s s := by
  cases p <;> simp [Part.same]

theorem Part.same_trans {p : Part} {s t u : State} (h : p.same s t) (h' : p.same t u) : p.same s u := by
  cases p <;> simp_all [Part.same]

/-- Doing nothing changes nothing. -/
theorem OnlyChanges.refl (ps : List Part) (s : State) : OnlyChanges ps s s := fun p _ => Part.same_refl p s

theorem OnlyChanges.trans {ps : List Part} {s t u : State} (h : OnlyChanges ps s t) (h' : OnlyChanges ps t u) :
    OnlyChanges ps s u := fun p hp => Part.same_trans (h p hp) (h' p hp)

theorem OnlyChanges.mono {ps qs : List Part} {s t : State} (h : OnlyChanges ps s t) (hs : ps ⊆ qs) :
    OnlyChanges qs s t := fun p hp => h p fun hm => hp (hs hm)

section Updates
variable (s : State)

theorem onlyChanges_setV (x : RegId) (b : Byte) : OnlyChanges [.v] s (s.setV x b) := by
  intro p hp; cases p <;> simp_all [Part.same]

theorem onlyChanges_setI (w : Word) : OnlyChanges [.i] s (s.setI w) := by
  intro p hp; cases p <;> simp_all [Part.same]

theorem onlyChanges_setPc (w : Word) : OnlyChanges [.pc] s (s.setPc w) := by
  intro p hp; cases p <;> simp_all [Part.same]

theorem onlyChanges_setMem (m : Memory) : OnlyChanges [.memory] s (s.setMem m) := by
  intro p hp; cases p <;> simp_all [Part.same]

theorem onlyChanges_setFb (f : Frame) : OnlyChanges [.framebuffer] s (s.setFb f) := by
  intro p hp; cases p <;> simp_all [Part.same]

theorem onlyChanges_setDt (b : Byte) : OnlyChanges [.dt] s (s.setDt b) := by
  intro p hp; cases p <;> simp_all [Part.same]

theorem onlyChanges_setSt (b : Byte) : OnlyChanges [.st] s (s.setSt b) := by
  intro p hp; cases p <;> simp_all [Part.same]

theorem onlyChanges_countDraw : OnlyChanges [.draws] s s.countDraw := by
  intro p hp; cases p <;> simp_all [Part.same]

theorem onlyChanges_armKeyWait (x : RegId) : OnlyChanges [.keyWait] s (s.armKeyWait x) := by
  intro p hp; cases p <;> simp_all [Part.same]

theorem onlyChanges_logUnknown (op a : Word) : OnlyChanges [.logOut] s (s.logUnknown op a) := by
  intro p hp; cases p <;> simp_all [Part.same]

theorem onlyChanges_loadRegs (bs : List Byte) : OnlyChanges [.v] s (s.loadRegs bs) := by
  intro p hp; cases p <;> simp_all [Part.same]

theorem onlyChanges_raise (r : Raise) : OnlyChanges [.terminated, .fault] s (s.raise r) := by
  intro p hp; cases p <;> simp_all [Part.same]

/-- Fault entry, as the statements say it. -/
theorem entersFault_raise (r : Raise) : EntersFault (.next (s.raise r)) s (raiseCode r) :=
  ⟨_, rfl, rfl, rfl, onlyChanges_raise s r⟩

end Updates

/-- A push changes the call stack alone. -/
theorem onlyChanges_push {s t : State} (h : s.push = .ok t) : OnlyChanges [.callStack] s t := by
  rcases State.push_cases s with ⟨_, he⟩ | ⟨_, he⟩ <;> rw [he] at h <;> cases h
  intro p hp; cases p <;> simp_all [Part.same]

/-- A pop changes the call stack alone. -/
theorem onlyChanges_pop {s : State} {p : Word × State} (h : s.pop = .ok p) : OnlyChanges [.callStack] s p.2 := by
  rcases State.pop_cases s with ⟨_, he⟩ | ⟨_, he⟩ <;> rw [he] at h <;> cases h
  intro p hp; cases p <;> simp_all [Part.same]

end Sys2Proof.Machine
end

