-- ==== Sys2Proof/Laws/Step.lean ====
section
/-! SUPPORT. What an execution pass and an event can do, said once; and what they do to the canonical memory. -/

namespace Sys2Proof.Machine

/-- Everything an execution pass can do when it answers `t`. -/
theorem execPass_cases {s t : State} (h : execPass s = .next t) :
    ((s.terminated = true ∨ s.pause = true) ∧ t = s) ∨
    (s.awaitingKey = true ∧ t = s.keyWaitPass) ∨
    (4094 < s.pc.toNat ∧ t = s.raise (rangeFault s.pc.toNat)) ∨
    (∃ op, decodeWord op = none ∧ t = s.advance.logUnknown op s.pc) ∨
    (∃ i, exec i s.advance = .next t) := by
  unfold execPass at h
  split at h
  · next ht => cases h; exact .inl ⟨.inl ht, rfl⟩
  split at h
  · next hp => cases h; exact .inl ⟨.inr hp, rfl⟩
  split at h
  · next hk => cases h; exact .inr (.inl ⟨hk, rfl⟩)
  rcases s.fetch_cases with ⟨_, hf⟩ | ⟨hpc, hf⟩ <;> rw [hf] at h
  · simp only [runWord] at h
    split at h
    · exact .inr (.inr (.inr (.inr ⟨_, h⟩)))
    · next hd => cases h; exact .inr (.inr (.inr (.inl ⟨_, hd, rfl⟩)))
  · cases h; exact .inr (.inr (.inl ⟨hpc, rfl⟩))

/-- The memory after a soft reset keeps the canonical form. -/
theorem wf_softResetMemory {m : Memory} (h : m.wf) {rom : List Byte} (hr : wfRom rom = true) :
    (softResetMemory m rom).wf := by
  have : rom.length ≤ 3584 := by simpa [wfRom] using hr
  exact Memory.wf_writeAll (Memory.wf_restoreFont (Memory.wf_clearProgram h)) rom 0x200 (by omega)

/-- Reset memory has the canonical form. -/
theorem wf_resetMemory : State.reset.mem.wf := Memory.wf_nil

/-- Inserting an event adds that event and loses none. -/
theorem insertEvent_perm (e : Event) (es : List Event) : (insertEvent e es).Perm (e :: es) := by
  induction es with
  | nil => exact .refl _
  | cons f es ih =>
    simp only [insertEvent]
    split
    · exact .refl _
    · exact (ih.cons f).trans (.swap _ _ _)

end Sys2Proof.Machine
end

