-- ==== Sys2Proof/Tests/Slice0.lean ====
section
/-! SUPPORT. Tests: ill-formed terms refused, words written out from the opcode map, single steps against the vectors
of 95_test_vectors.md (each test names its vectors), and a witness for the hypotheses of every statement. -/

namespace Sys2Proof.Machine

/-- What `f` sees in a next state. -/
def peek {α : Type} (o : Result) (f : State → α) : Option α :=
  match o with
  | .next t => some (f t)
  | .fault _ => none
  | .refused _ => none

/-- The vectors' start state with some registers set. -/
def withV (rs : List (RegId × Byte)) : State := rs.foldl (fun s r => s.setV r.1 r.2) State.reset

/-- One step on the word `w` at 0x200: fetch, decode and effect. -/
def after {α : Type} (s : State) (w : Nat) (f : State → α) : Option α := peek (step (s.withFetchWord 16 w)) f

/-- V0, V1, VF and the pc, which most vectors speak of. -/
def seen (t : State) : Byte × Byte × Byte × Word := (t.getV 0, t.getV 1, t.getV 15, t.pc)

/-- The fault a step entered, the pc and `sp`. -/
def seenFault (t : State) : Bool × FaultCode × Word × Nat := (t.terminated, t.fault, t.pc, t.sp.val)

/-- How a list of pixels is lit, and VF. -/
def lit (ps : List (Fin 64 × Fin 32)) (t : State) : List Bool × Byte := (ps.map fun p => t.pixel p.1 p.2, t.getV 15)

/-- A frame with the given pixels set. -/
def frameOf (ps : List (Fin 64 × Fin 32)) : Frame := ps.foldl (fun f p => toggleFrame f p.1 p.2) blankFrame

/-! ## Well-formedness: ill-formed terms are refused -/

theorem test_wf_nibble : wfNibble 15 = true ∧ wfNibble 16 = false := by decide
theorem test_wf_nn : wfNN 255 = true ∧ wfNN 256 = false := by decide
theorem test_wf_nnn : wfNNN 4095 = true ∧ wfNNN 4096 = false := by decide
theorem test_wf_rom : wfRom (List.replicate 3584 0) = true ∧ wfRom (List.replicate 3585 0) = false := by
  simp only [wfRom, List.length_replicate]
  decide
theorem test_wf_instr : (Instr.drwVxVyN 15 15 15).wellFormed = true := by decide

/-! ## Decoding: words written out from 30_encoding.md R94 -/

theorem test_decode_fixed : decodeWord 0x00E0 = some .cls ∧ decodeWord 0x00EE = some .ret := by decide
theorem test_decode_nnn :
    decodeWord 0x1234 = some (.jpNnn 0x234) ∧ decodeWord 0x220C = some (.callNnn 0x20C) ∧
    decodeWord 0xAFFE = some (.ldINnn 0xFFE) ∧ decodeWord 0xB305 = some (.jpV0Nnn 0x305) := by decide
theorem test_decode_xnn :
    decodeWord 0x3A7F = some (.seVxNn 0xA 0x7F) ∧ decodeWord 0x4311 = some (.sneVxNn 3 0x11) ∧
    decodeWord 0x6F0A = some (.ldVxNn 15 0x0A) ∧ decodeWord 0x75FF = some (.addVxNn 5 0xFF) ∧
    decodeWord 0xC80F = some (.rndVxNn 8 0x0F) := by decide
theorem test_decode_xy :
    decodeWord 0x5120 = some (.seVxVy 1 2) ∧ decodeWord 0x9120 = some (.sneVxVy 1 2) ∧
    decodeWord 0xD5A3 = some (.drwVxVyN 5 0xA 3) := by decide
theorem test_decode_alu :
    decodeWord 0x8340 = some (.ldVxVy 3 4) ∧ decodeWord 0x8341 = some (.orVxVy 3 4) ∧
    decodeWord 0x8342 = some (.andVxVy 3 4) ∧ decodeWord 0x8343 = some (.xorVxVy 3 4) ∧
    decodeWord 0x8344 = some (.addVxVy 3 4) := by decide
theorem test_decode_alu_shifts :
    decodeWord 0x8345 = some (.subVxVy 3 4) ∧ decodeWord 0x8346 = some (.shrVxVy 3 4) ∧
    decodeWord 0x8347 = some (.subnVxVy 3 4) ∧ decodeWord 0x834E = some (.shlVxVy 3 4) := by decide
theorem test_decode_keys :
    decodeWord 0xE79E = some (.skpVx 7) ∧ decodeWord 0xE7A1 = some (.sknpVx 7) ∧
    decodeWord 0xF30A = some (.ldVxK 3) := by decide
theorem test_decode_timers :
    decodeWord 0xF107 = some (.ldVxDt 1) ∧ decodeWord 0xF215 = some (.ldDtVx 2) ∧
    decodeWord 0xF318 = some (.ldStVx 3) := by decide
theorem test_decode_index :
    decodeWord 0xF21E = some (.addIVx 2) ∧ decodeWord 0xFA29 = some (.ldFVx 0xA) ∧
    decodeWord 0xFB33 = some (.ldBVx 0xB) ∧ decodeWord 0xFC55 = some (.ldMemVx 0xC) ∧
    decodeWord 0xFD65 = some (.ldVxMem 0xD) := by decide
/-- J13 to J17. -/
theorem test_decode_unknown :
    decodeWord 0x0000 = none ∧ decodeWord 0x0123 = none ∧ decodeWord 0x5121 = none ∧ decodeWord 0x8018 = none ∧
    decodeWord 0x801F = none ∧ decodeWord 0xE000 = none ∧ decodeWord 0xF000 = none ∧ decodeWord 0xF075 = none ∧
    decodeWord 0x00FD = none ∧ decodeWord 0x9121 = none ∧ decodeWord 0x00E1 = none := by decide
/-- Big-endian, J18. -/
theorem test_decode_bytes : decode [0x12, 0x34, 0x56] = .ok (.jpNnn 0x234, [0x56]) := by rfl
theorem test_decode_truncated : decode [0x12] = .error .truncated ∧ decode [] = .error .truncated := ⟨rfl, rfl⟩
theorem test_table_word : decodeTableWord 16 0x8F14 = some (.addVxVy 15 1) ∧ decodeTableWord 16 0x5121 = none := by
  decide

/-! ## Register, arithmetic, logic, shift -/

/-- A1, A2. -/
theorem test_ldVxNn : after (withV []) 0x600A seen = some (0x0A, 0, 0, 0x202) ∧
    after (withV []) 0x6FFF seen = some (0, 0, 0xFF, 0x202) := by decide
/-- A4, A6. -/
theorem test_addVxNn : after (withV [(0, 0xFF), (15, 1)]) 0x7001 seen = some (0, 0, 1, 0x202) ∧
    after (withV [(15, 3)]) 0x7F02 seen = some (0, 0, 5, 0x202) := by decide
/-- A7. -/
theorem test_ldVxVy : after (withV [(1, 0x37)]) 0x8010 seen = some (0x37, 0x37, 0, 0x202) := by decide
/-- A8. -/
theorem test_orVxVy : after (withV [(0, 0xF0), (1, 0x3C), (15, 1)]) 0x8011 seen = some (0xFC, 0x3C, 1, 0x202) := by
  decide
/-- A9. -/
theorem test_andVxVy : after (withV [(0, 0xF0), (1, 0x3C), (15, 1)]) 0x8012 seen = some (0x30, 0x3C, 1, 0x202) := by
  decide
/-- A10. -/
theorem test_xorVxVy : after (withV [(0, 0xF0), (1, 0x3C), (15, 1)]) 0x8013 seen = some (0xCC, 0x3C, 1, 0x202) := by
  decide
/-- A13, A15. -/
theorem test_addVxVy : after (withV [(0, 0xFF), (1, 1)]) 0x8014 seen = some (0, 1, 1, 0x202) ∧
    after (withV [(0, 0xFF), (15, 1)]) 0x8014 seen = some (0xFF, 0, 0, 0x202) := by decide
/-- A17, A19. -/
theorem test_addVxVy_vf : after (withV [(15, 1), (1, 2)]) 0x8F14 seen = some (0, 2, 0, 0x202) ∧
    after (withV [(0, 0x10), (15, 0xF0)]) 0x80F4 seen = some (0, 0, 1, 0x202) := by decide
/-- A21, A22. -/
theorem test_subVxVy : after (withV [(0, 5), (1, 0x0A)]) 0x8015 seen = some (0xFB, 0x0A, 0, 0x202) ∧
    after (withV [(0, 0x33), (1, 0x33)]) 0x8015 seen = some (0, 0x33, 1, 0x202) := by decide
/-- A24, A25. -/
theorem test_subnVxVy : after (withV [(0, 5), (1, 0x0A)]) 0x8017 seen = some (5, 0x0A, 1, 0x202) ∧
    after (withV [(0, 0x0A), (1, 5)]) 0x8017 seen = some (0xFB, 5, 0, 0x202) := by decide
/-- A26, A27. -/
theorem test_shrVxVy : after (withV [(0, 0x99), (1, 5)]) 0x8016 seen = some (2, 5, 1, 0x202) ∧
    after { withV [(0, 4), (1, 5)] with quirkShift := true } 0x8016 seen = some (2, 5, 0, 0x202) := by decide
/-- A33, A34. -/
theorem test_shrVxVy_vf : after (withV [(1, 2)]) 0x8F16 seen = some (0, 2, 0, 0x202) ∧
    after (withV [(15, 3)]) 0x80F6 seen = some (1, 0, 1, 0x202) := by decide
/-- A29, A30. -/
theorem test_shlVxVy : after (withV [(0, 0x99), (1, 0x81)]) 0x801E seen = some (2, 0x81, 1, 0x202) ∧
    after { withV [(0, 0x40), (1, 0x81)] with quirkShift := true } 0x801E seen = some (0x80, 0x81, 0, 0x202) := by
  decide

/-! ## Control transfer and skips -/

/-- J4. -/
theorem test_jpNnn : after (withV []) 0x1301 (fun t => t.pc) = some 0x301 := by decide
/-- J5 at 0x200, J6. -/
theorem test_callNnn : after { withV [] with sp := 15 } 0x2300
    (fun t => (t.pc, t.sp.val, t.stack[15], t.stack[14])) = some (0x300, 16, 0x202, 0) := by decide
/-- J7. -/
theorem test_callNnn_overflow : after { withV [] with sp := 16 } 0x2300 seenFault =
    some (true, .stackOverflow, 0x202, 16) := by decide
/-- J8. -/
theorem test_ret : after { withV [] with sp := 1, stack := (Vector.replicate 16 0).set 0 0x206 } 0x00EE
    (fun t => (t.pc, t.sp.val, t.stack[0])) = some (0x206, 0, 0x206) := by decide
/-- J9. -/
theorem test_ret_underflow : after (withV []) 0x00EE seenFault = some (true, .stackUnderflow, 0x202, 0) := by decide
/-- J11, J12. -/
theorem test_jpV0Nnn : after (withV [(0, 0xFF)]) 0xBFFF (fun t => t.pc) = some 0x10FE ∧
    after (withV [(3, 8)]) 0xB300 (fun t => t.pc) = some 0x300 := by decide
/-- J13 at 0x200. -/
theorem test_unknown_logged : after (withV []) 0x0000 (fun t => (t.logOut, t.pc, t.terminated)) =
    some ([⟨0, 0x200⟩], 0x202, false) := by decide
/-- K1, K2. -/
theorem test_seVxNn : after (withV []) 0x3000 (fun t => t.pc) = some 0x204 ∧
    after (withV [(0, 2)]) 0x3000 (fun t => t.pc) = some 0x202 := by decide
/-- K3, K4. -/
theorem test_sneVxNn : after (withV [(3, 0x10)]) 0x4311 (fun t => t.pc) = some 0x204 ∧
    after (withV [(3, 0x11)]) 0x4311 (fun t => t.pc) = some 0x202 := by decide
/-- K5, K6. -/
theorem test_seVxVy : after (withV [(1, 0x7F), (2, 0x7F)]) 0x5120 (fun t => t.pc) = some 0x204 ∧
    after (withV [(1, 0x7F), (2, 0x7E)]) 0x5120 (fun t => t.pc) = some 0x202 := by decide
/-- K8, K9. -/
theorem test_sneVxVy : after (withV [(1, 1), (2, 2)]) 0x9120 (fun t => t.pc) = some 0x204 ∧
    after (withV [(3, 3)]) 0x9330 (fun t => t.pc) = some 0x202 := by decide
/-- K11, K14. -/
theorem test_skpVx : after { withV [(0, 5)] with keys := 0xFFDF } 0xE09E (fun t => t.pc) = some 0x202 ∧
    after { withV [(0, 0x15)] with keys := 0x20 } 0xE09E (fun t => t.pc) = some 0x204 := by decide
/-- K12, K13. -/
theorem test_sknpVx : after (withV [(0, 5)]) 0xE0A1 (fun t => t.pc) = some 0x204 ∧
    after { withV [(0, 5)] with keys := 0x20 } 0xE0A1 (fun t => t.pc) = some 0x202 := by decide

/-! ## Framebuffer -/

/-- W16. -/
theorem test_cls : after { withV [(15, 1)] with fb := frameOf [(0, 0), (63, 31)] } 0x00E0
    (fun t => (t.fb, t.getV 15)) = some (blankFrame, 1) := by decide
/-- W4, W5: the bottom right corner, wrapping and clipped. -/
theorem test_drw_corner : after { withV [(0, 62), (1, 31)] with i := 0x300, mem := [(0x300, 0xC0), (0x301, 0xC0)] }
      0xD012 (fun t => t.fb) = some (frameOf [(62, 31), (63, 31), (62, 0), (63, 0)]) ∧
    after { withV [(0, 62), (1, 31)] with i := 0x300, mem := [(0x300, 0xC0), (0x301, 0xC0)], vwrap := false }
      0xD012 (fun t => t.fb) = some (frameOf [(62, 31), (63, 31)]) := by decide
/-- W14, W13: a collision beside a new pixel; a 0 sprite bit does not collide. -/
theorem test_drw_collision : after { withV [(0, 126)] with i := 0x300, mem := [(0x300, 0xC0)], fb := frameOf [(62, 0)] }
      0xD011 (lit [(62, 0), (63, 0), (61, 0)]) = some ([false, true, false], 1) ∧
    after { withV [] with i := 0x300, mem := [(0x300, 0x40)], fb := frameOf [(0, 0)] }
      0xD011 (lit [(0, 0), (1, 0)]) = some ([true, true], 0) := by decide

/-! ## Index and memory -/

/-- M22's glyph 0 and P8's glyph A, read from memory at the font base after reset, whatever the base. -/
theorem test_font_bytes :
    ([0, 1, 2, 3, 4].map fun k => State.reset.mem.read (fontBase + k)) = [0xF0, 0x90, 0x90, 0x90, 0xF0] ∧
    ([50, 51, 52, 53, 54].map fun k => State.reset.mem.read (fontBase + k)) = [0xF0, 0x90, 0xF0, 0x90, 0x90] := by
  have h : ∀ k, k < 80 → State.reset.mem.read (fontBase + k) = fontTable.getD k 0 := fun _ hk => unwritten_font hk
  constructor <;> simp only [List.map_cons, List.map_nil, h, Nat.reduceLT] <;> decide
/-- The byte after the font table is no font byte. -/
theorem test_font_end : State.reset.mem.read (fontBase + 80) = 0 := by
  simp [State.reset, unwritten, inFont]

/-- M2. -/
theorem test_ldINnn : after (withV []) 0xAFFF (fun t => t.i) = some 0xFFF := by decide
/-- M4, M5. -/
theorem test_addIVx : after { withV [(0, 1)] with i := 0xFFF } 0xF01E (fun t => (t.i, t.getV 15)) =
      some (0x1000, 0) ∧
    after { withV [(0, 1)] with i := 0xFFFF } 0xF01E (fun t => t.i) = some 0 := by decide
/-- M6, M8: at the font base plus 0x32, whatever the base; only the low nibble counts. -/
theorem test_ldFVx : after (withV [(0, 0x0A)]) 0xF029 (fun t => t.i) = some (BitVec.ofNat 16 (fontBase + 0x32)) ∧
    after (withV [(0, 0x1A)]) 0xF029 (fun t => t.i) = some (BitVec.ofNat 16 (fontBase + 0x32)) := ⟨rfl, rfl⟩
/-- M9, M12. -/
theorem test_ldBVx : after { withV [(0, 0xEA)] with i := 0x300 } 0xF033
      (fun t => (t.mem.read 0x300, t.mem.read 0x301, t.mem.read 0x302, t.i)) = some (2, 3, 4, 0x300) ∧
    after { withV [(0, 0x7B)] with i := 0xFFD } 0xF033
      (fun t => (t.mem.read 0xFFD, t.mem.read 0xFFE, t.mem.read 0xFFF, t.terminated)) = some (1, 2, 3, false) := by
  decide
/-- M11. -/
theorem test_ldBVx_fault : after { withV [(0, 0x7B)] with i := 0xFFE } 0xF033
    (fun t => (t.mem.read 0xFFE, t.mem.read 0xFFF, t.fault, t.pc)) = some (0, 0, .memoryFault, 0x202) := by decide
/-- M13, M14. -/
theorem test_ldMemVx : after { withV [(0, 0x11), (1, 0x22), (2, 0x33), (3, 0x44)] with i := 0x300 } 0xF255
      (fun t => (t.mem.read 0x300, t.mem.read 0x301, t.mem.read 0x302, t.mem.read 0x303, t.i)) =
      some (0x11, 0x22, 0x33, 0, 0x303) ∧
    after { withV [] with i := 0x300, quirkLoadStore := true } 0xF255 (fun t => t.i) = some 0x300 := by decide
/-- M16. -/
theorem test_ldMemVx_fault : after { withV [(0, 9)] with i := 0xFF1 } 0xFF55
    (fun t => (t.mem.read 0xFF1, t.i, t.fault)) = some (0, 0xFF1, .memoryFault) := by decide
/-- M18. -/
theorem test_ldVxMem : after { withV [(3, 7)] with i := 0x300, mem := [(0x300, 2), (0x301, 3), (0x302, 4), (0x303, 5)] }
    0xF265 (fun t => (t.getV 0, t.getV 1, t.getV 2, t.getV 3, t.i)) = some (2, 3, 4, 7, 0x303) := by decide
/-- M20. -/
theorem test_ldVxMem_fault : after { withV [(0, 7)] with i := 0xFF8 } 0xF865
    (fun t => (t.getV 0, t.i, t.fault)) = some (7, 0xFF8, .memoryFault) := by decide

/-! ## Random, timers, key wait -/

/-- T1 and T2 for every draw: bits outside NN are clear, and NN = 0 gives 0. -/
theorem test_rndVxNn : after (withV [(0, 9)]) 0xC00F (fun t => (t.getV 0, t.rndCount)) =
      some (Config.rndDraw 0 &&& 0x0F, 1) ∧
    ∀ b : Byte, b &&& 0 = 0 := ⟨rfl, by simp⟩
/-- T4. -/
theorem test_ldVxDt : after { withV [] with dt := 3 } 0xF107 (fun t => (t.getV 1, t.dt)) = some (3, 3) := by decide
/-- T5. -/
theorem test_ldDtVx : after (withV [(0, 0x3C)]) 0xF015 (fun t => (t.dt, t.st)) = some (0x3C, 0) := by decide
/-- T6, T7. -/
theorem test_ldStVx : after (withV [(0, 2)]) 0xF018 (fun t => (t.st, t.dt, t.soundActive)) = some (2, 0, true) ∧
    after { withV [] with st := 2 } 0xF018 (fun t => (t.st, t.soundActive)) = some (0, false) := by decide

/-- The state that T8 leaves, before its check below. -/
def waiting (prev now : BitVec 16) : State :=
  { withV [(3, 9)] with awaitingKey := true, keyDest := 3, keyPrev := prev, keys := now, pc := 0x202 }

/-- T8. -/
theorem test_ldVxK : after { withV [(3, 9)] with keys := 0x80 } 0xF30A
    (fun t => (t.awaitingKey, t.keyDest, t.keyPrev, t.pc, t.getV 3, t.runState)) =
    some (true, 3, 0x80, 0x202, 9, .awaitingKey) := by decide
/-- T9, T10, T11, T13. -/
theorem test_keyWaitPass :
    peek (step (waiting 0x80 0x80)) (fun t => (t.awaitingKey, t.keyPrev, t.getV 3)) = some (true, 0x80, 9) ∧
    peek (step (waiting 0x80 0)) (fun t => (t.awaitingKey, t.keyPrev)) = some (true, 0) ∧
    peek (step (waiting 0 0x90)) (fun t => (t.awaitingKey, t.getV 3, t.pc, t.runState)) =
      some (false, 4, 0x202, .running) ∧
    peek (step (waiting 0x80 0x81)) (fun t => (t.awaitingKey, t.getV 3)) = some (false, 0) := by decide
/-- T14, E13. -/
theorem test_keyWait_paused : peek (step { waiting 0 1 with pause := true })
    (fun t => (t.awaitingKey, t.keyPrev, t.getV 3, t.runState)) = some (true, 0, 9, .paused) := by decide

/-! ## Passes and events -/

/-- E10, E11's second pass. -/
theorem test_fetch_fault : peek (step { withV [] with pc := 0xFFF }) seenFault = some (true, .memoryFault, 0xFFF, 0) ∧
    peek (step { withV [] with pc := 0x1000 }) seenFault = some (true, .memoryFault, 0x1000, 0) := by decide
/-- E12: the last word of memory runs. -/
theorem test_last_word : peek (step { withV [] with pc := 0xFFE, mem := [(0xFFE, 0x1F), (0xFFF, 0xFE)] })
    (fun t => (t.pc, t.terminated)) = some (0xFFE, false) := by decide
/-- E1, E2, E4, E6. -/
theorem test_tick60 :
    peek (step { withV [] with dt := 3, st := 1, script := [.tick60] }) (fun t => (t.dt, t.st, t.pc)) =
      some (2, 0, 0x200) ∧
    peek (step { withV [] with script := [.tick60] }) (fun t => (t.dt, t.st)) = some (0, 0) ∧
    peek (step { withV [] with dt := 5, pause := true, script := [.tick60] }) (fun t => t.dt) = some 4 ∧
    peek (step { withV [] with dt := 5, terminated := true, script := [.tick60] }) (fun t => t.dt) = some 5 := by
  decide
/-- E8. -/
theorem test_terminate : peek (step { withV [] with script := [.terminate] }) (fun t => (t.terminated, t.fault)) =
    some (true, .none) := by decide
/-- E9. -/
theorem test_coldReset : peek
    (step { withV [(0, 1)] with
      terminated := true, fault := .stackUnderflow, pc := 0x300, mem := [(0x300, 9)], script := [.coldReset] })
    (fun t => (t.terminated, t.fault, t.getV 0, t.mem.length)) = some (false, .none, 0, 0) := by decide
/-- Z1, Z8: the program region is cleared and the ROM is back; a terminated core ignores the reset. -/
theorem test_softReset :
    peek (step { withV [(0, 1)] with
      sp := 3, romImage := [0x12], mem := [(0x200, 1), (0x300, 9)], script := [.softReset] })
      (fun t => (t.getV 0, t.sp.val, t.mem)) = some (0, 0, [(0x200, 0x12)]) ∧
    peek (step { withV [(0, 1)] with terminated := true, script := [.softReset] }) (fun t => t.getV 0) = some 1 := by
  decide
/-- Z4. -/
theorem test_load : peek (step { withV [] with mem := [(0x300, 9)], script := [.load [0x12, 0x00]] })
    (fun t => (t.romImage, t.mem, t.pc)) = some ([0x12, 0], [(0x200, 0x12)], 0x200) := by decide
/-- Coincident events: cold reset, terminate, load, soft reset, levels, exec, tick, outputs. -/
theorem test_arrange : arrange [.sampleOutputs, .tick60, .exec, .setPause true, .softReset, .load [], .terminate, .coldReset] =
    [.coldReset, .terminate, .load [], .softReset, .setPause true, .exec, .tick60, .sampleOutputs] := by decide
/-- Writing what the address reads as when unlisted removes its cell. -/
theorem test_canonical : Memory.write [(0x300, 9), (0x302, 7)] 0x300 0 = [(0x302, 7)] ∧
    Memory.write [(0x300, 9), (0x302, 7)] 0x301 8 = [(0x300, 9), (0x301, 8), (0x302, 7)] := by decide

/-! ## Witnesses: for every statement with hypotheses, a state and operands that meet them, clause by clause -/

theorem witness_EncodingADecodedWord : decodeWord 0xD5A3 = some (.drwVxVyN 5 0xA 3) := by decide
theorem witness_Shifts_vx : (0x81 : Byte) =
    (if ({ withV [(0, 0x81)] with quirkShift := true } : State).quirkShift
      then (withV [(0, 0x81)]).getV 0 else (withV [(0, 0x81)]).getV 1) := by decide
theorem witness_Shifts_vy : (0x81 : Byte) =
    (if (withV [(1, 0x81)]).quirkShift then (withV [(1, 0x81)]).getV 0 else (withV [(1, 0x81)]).getV 1) := by decide
theorem witness_RegistersChangeOnlyAsNamed :
    (∃ t, exec (.addVxVy 0 1) State.reset = .next t) ∧ mayWriteV (.addVxVy 0 1) 14 = false ∧
    (∃ t, exec (.ldVxMem 3) State.reset = .next t) ∧ mayWriteV (.ldVxMem 3) 4 = false :=
  ⟨⟨_, rfl⟩, by decide, ⟨_, rfl⟩, by decide⟩
theorem witness_Call_pushes : ({ State.reset with sp := 0 } : State).sp.val < 16 ∧
    ({ State.reset with sp := 15 } : State).sp.val < 16 := by decide
theorem witness_Call_overflows : ({ State.reset with sp := 16 } : State).sp = 16 := by decide
theorem witness_Return_pops : 0 < ({ State.reset with sp := 1 } : State).sp.val ∧
    0 < ({ State.reset with sp := 16 } : State).sp.val := by decide
theorem witness_Return_underflows : State.reset.sp = 0 := by decide
theorem witness_CallThenReturn : ({ State.reset with sp := 15 } : State).sp.val < 16 := by decide

/-- A one-row sprite 0x80 at `a`, the draw position 0. -/
def drawing (a : Word) : State := { State.reset with i := a, mem := [(a.toNat, 0x80)] }

theorem witness_Draw_fits : (drawing 0xFFF).i.toNat + 1 - 1 ≤ 4095 ∧ (0 : Fin 16).val = 0 := by decide
theorem witness_Draw_covered : (drawing 0xFFF).spriteCovers 0 1 1 0 0 ∧
    ({ drawing 0xFFF with fb := frameOf [(0, 0)] } : State).spriteCovers 0 1 1 0 0 ∧
    ({ drawing 0xFFF with fb := frameOf [(0, 0)] } : State).pixel 0 0 = true :=
  ⟨⟨0, 0, by decide, by decide, by decide, .inl (by decide), .inl (by decide)⟩,
   ⟨0, 0, by decide, by decide, by decide, .inl (by decide), .inl (by decide)⟩, by decide⟩
theorem witness_Draw_uncovered : (∀ px py, ¬ State.reset.spriteCovers 0 1 0 px py) ∧
    ¬ ∃ px py, State.reset.spriteCovers 0 1 0 px py ∧ State.reset.pixel px py = true :=
  ⟨fun _ _ ⟨_, _, h, _⟩ => absurd h (Nat.not_lt_zero _), fun ⟨_, _, ⟨_, _, h, _⟩, _⟩ => absurd h (Nat.not_lt_zero _)⟩
theorem witness_Draw_faults : (2 : Fin 16).val ≠ 0 ∧ (drawing 0xFFF).i.toNat + 2 - 1 > 4095 := by decide
theorem witness_DrawTwice : (0 : RegId) ≠ 15 ∧ (1 : RegId) ≠ 15 ∧ (drawing 0xFFF).i.toNat + 1 ≤ 4096 := by decide
theorem witness_Bcd : ({ State.reset with i := 0xFFD } : State).i.toNat + 2 ≤ 4095 ∧
    ({ State.reset with i := 0xFFE } : State).i.toNat + 2 > 4095 := by decide
theorem witness_Bcd_frame : 0xFFC < ({ State.reset with i := 0xFFD } : State).i.toNat ∧
    ({ State.reset with i := 0x300 } : State).i.toNat + 2 < 0x303 := by decide
theorem witness_DumpAndLoad : ({ State.reset with i := 0xFF0 } : State).i.toNat + (15 : RegId).val ≤ 4095 ∧
    ({ State.reset with i := 0xFF1 } : State).i.toNat + (15 : RegId).val > 4095 := by decide
theorem witness_DumpAndLoad_registers : (0 : RegId) ≤ 3 ∧ (3 : RegId) ≤ 3 ∧ (3 : RegId) < 4 := by decide
theorem witness_DumpAndLoad_quirks : State.reset.quirkLoadStore = false ∧
    ({ State.reset with quirkLoadStore := true } : State).quirkLoadStore = true := by decide
theorem witness_StoresAreSeen : (0xFFE : Word).toNat ≤ 4094 ∧
    ({ State.reset with i := 0xFFD } : State).i.toNat + 2 ≤ 4095 ∧
    ({ State.reset with i := 0xFF0 } : State).i.toNat + (15 : RegId).val ≤ 4095 ∧
    ({ State.reset with i := 0xFFF } : State).i.toNat + (0 : RegId).val ≤ 4095 := by decide
theorem witness_CoincidentEvents : Event.setVwrap true = .setKeys 0 ∨ Event.setVwrap true = .setPause true ∨
    Event.setVwrap true = .setQuirkLoadStore true ∨ Event.setVwrap true = .setQuirkShift true ∨
    Event.setVwrap true = .setVwrap true := by decide
theorem witness_CallThenReturn_otherEntry : (14 : Nat) ≠ ({ State.reset with sp := 15 } : State).sp.val := by decide
theorem witness_Random : (0x0F : Byte).getLsbD 7 = false ∧ (1 : RegId) ≠ 0 := by decide
theorem witness_KeyWaitInstruction : State.reset.terminated = false ∧ State.reset.pause = false := by decide
theorem witness_KeyWaitPass : (waiting 0 0x90).terminated = false ∧ (waiting 0 0x90).pause = false ∧
    (waiting 0 0x90).awaitingKey = true := by decide
theorem witness_KeyWaitPass_completes : (waiting 0 0x90).newlyDown 4 ∧
    ∀ k, k < 4 → ¬ (waiting 0 0x90).newlyDown k := by
  simp only [State.newlyDown]
  decide
theorem witness_KeyWaitPass_waits : ∀ j, ¬ (waiting 0x80 0x80).newlyDown j := by
  simp only [State.newlyDown]
  decide
theorem witness_StepPerforms : State.reset.script = [] ∧
    ({ State.reset with script := [.exec, .tick60] } : State).script = .exec :: [.tick60] ∧
    Event.load [0x12] ≠ .exec ∧
    ({ State.reset with script := [.load [0x12], .exec] } : State).script = .load [0x12] :: [.exec] := by decide

/-- A running state with the two bytes of a word at `a`. -/
def fetching (a : Word) (hi lo : Byte) (es : List Event) : State :=
  { State.reset with pc := a, mem := [(a.toNat, hi), (a.toNat + 1, lo)], script := es }

theorem witness_StepRuns : (fetching 0xFFE 0x12 0x34 []).running ∧ (fetching 0xFFE 0x12 0x34 []).pc.toNat ≤ 4094 ∧
    decode [(fetching 0xFFE 0x12 0x34 []).mem.read (fetching 0xFFE 0x12 0x34 []).pc.toNat,
      (fetching 0xFFE 0x12 0x34 []).mem.read ((fetching 0xFFE 0x12 0x34 []).pc.toNat + 1)] = .ok (.jpNnn 0x234, []) ∧
    (fetching 0xFFE 0x12 0x34 []).script = [] :=
  ⟨⟨rfl, rfl, rfl⟩, by decide, rfl, rfl⟩
theorem witness_StepRuns_scripted : (fetching 0xFFE 0x12 0x34 [.exec, .tick60]).running ∧
    (fetching 0xFFE 0x12 0x34 [.exec, .tick60]).script = .exec :: [.tick60] :=
  ⟨⟨rfl, rfl, rfl⟩, rfl⟩
theorem witness_UnknownWord : (fetching 0xFFE 0x51 0x21 []).running ∧ (fetching 0xFFE 0x51 0x21 []).pc.toNat ≤ 4094 ∧
    decode [(fetching 0xFFE 0x51 0x21 []).mem.read (fetching 0xFFE 0x51 0x21 []).pc.toNat,
      (fetching 0xFFE 0x51 0x21 []).mem.read ((fetching 0xFFE 0x51 0x21 []).pc.toNat + 1)] =
      .error (.unknownOpcode 0x5121) :=
  ⟨⟨rfl, rfl, rfl⟩, by decide, rfl⟩
theorem witness_FetchOutOfMemory : (fetching 0xFFF 0 0 []).running ∧ (fetching 0xFFF 0 0 []).pc.toNat > 4094 :=
  ⟨⟨rfl, rfl, rfl⟩, by decide⟩

/-- The reset state, but terminated. -/
def stopped : State := { State.reset with terminated := true }

theorem witness_StoppedCore : stopped.terminated = true ∧
    ({ State.reset with pause := true } : State).pause = true := by decide
theorem witness_TerminatedCoreIgnores : stopped.terminated = true ∧ Event.softReset ≠ .coldReset := by decide
theorem witness_Tick : stopped.terminated = true ∧ State.reset.terminated = false := by decide
theorem witness_TimerReachesZero : State.reset.terminated = false ∧
    ({ State.reset with script := [.tick60, .tick60] } : State).script = List.replicate 2 .tick60 := by decide
theorem witness_SoftReset : stopped.terminated = true ∧ State.reset.terminated = false := by decide
theorem witness_Load_refused : (List.replicate 3585 (0 : Byte)).length > 3584 ∧ stopped.terminated = true := by
  rw [List.length_replicate]
  decide
theorem witness_Load_accepted : (List.replicate 3584 (0 : Byte)).length ≤ 3584 ∧ State.reset.terminated = false := by
  rw [List.length_replicate]
  decide
theorem witness_ColdReset : (79 < 80) ∧ fontBase + 80 ≤ 4095 :=
  ⟨by decide, by have := Config.fontBase.isLt; simp only [fontBase]; omega⟩
theorem witness_RunState :
    stopped.terminated = true ∧
    ({ State.reset with pause := true } : State).terminated = false ∧
    ({ State.reset with pause := true } : State).pause = true ∧
    ((waiting 0 0).terminated = false ∧ (waiting 0 0).pause = false ∧ (waiting 0 0).awaitingKey = true) ∧
    (State.reset.terminated = false ∧ State.reset.pause = false ∧ State.reset.awaitingKey = false) := by decide
theorem witness_Outputs : (2047 : Fin 2048).val = (31 : Fin 32).val * 64 + (63 : Fin 64).val ∧
    State.reset.fault = .none ∧ ({ stopped with fault := .stackOverflow } : State).fault = .stackOverflow ∧
    ({ stopped with fault := .stackUnderflow } : State).fault = .stackUnderflow ∧
    ({ stopped with fault := .memoryFault } : State).fault = .memoryFault := by decide
theorem witness_EveryStepKeepsTheInvariant : State.reset.Inv ∧ (∃ t, step State.reset = .next t) ∧
    State.Inv { stopped with mem := [(0x300, 9)], fault := .memoryFault, romImage := [0x12] } :=
  ⟨⟨by decide, fun h => absurd rfl h, by decide⟩, ⟨_, rfl⟩, ⟨by decide, fun _ => rfl, by decide⟩⟩
theorem witness_OnlyCallAndReturn : (∃ t, exec .cls State.reset = .next t) ∧ Instr.cls ≠ .ret ∧
    ∀ nnn, Instr.cls ≠ .callNnn nnn := ⟨⟨_, rfl⟩, by decide, fun _ => nofun⟩
theorem witness_OnlyTheNamedStoreOrDraw : (∃ t, exec .ret State.reset = .next t) ∧
    (∀ x, Instr.ret ≠ .ldBVx x) ∧ (∀ x, Instr.ret ≠ .ldMemVx x) ∧ Instr.ret ≠ .cls ∧
    ∀ x y n, Instr.ret ≠ .drwVxVyN x y n := ⟨⟨_, rfl⟩, fun _ => nofun, fun _ => nofun, by decide, fun _ _ _ => nofun⟩
theorem witness_OnlyTheNamedWriteIndexAndTimers : (∃ t, exec .cls State.reset = .next t) ∧
    (∀ nnn, Instr.cls ≠ .ldINnn nnn) ∧ (∀ x, Instr.cls ≠ .addIVx x) ∧ (∀ x, Instr.cls ≠ .ldFVx x) ∧
    (∀ x, Instr.cls ≠ .ldMemVx x) ∧ (∀ x, Instr.cls ≠ .ldVxMem x) ∧ (∀ x, Instr.cls ≠ .ldDtVx x) ∧
    ∀ x, Instr.cls ≠ .ldStVx x :=
  ⟨⟨_, rfl⟩, fun _ => nofun, fun _ => nofun, fun _ => nofun, fun _ => nofun, fun _ => nofun, fun _ => nofun,
    fun _ => nofun⟩
theorem witness_PassesNeverChangeInputs : ∃ t, execPass State.reset = .next t := ⟨_, rfl⟩
theorem witness_PcAdvances : (∃ t, exec .cls State.reset = .next t) ∧ controlFlow .cls = false := ⟨⟨_, rfl⟩, by decide⟩
theorem witness_FaultingInstruction : State.reset.terminated = false ∧
    ∃ t, exec .ret State.reset = .next t ∧ t.terminated = true := ⟨by decide, _, rfl, by decide⟩
theorem witness_SoundTimerIsNeverRead : ∃ t, execPass (State.reset.setSt 7) = .next t := ⟨_, rfl⟩
theorem witness_StackAboveSp : AgreeBelowSp State.reset { State.reset with stack := Vector.replicate 16 0xABC } ∧
    ∃ t, execPass State.reset = .next t :=
  ⟨⟨rfl, fun k _ h => absurd h (Nat.not_lt_zero k), rfl, fun p hp => by cases p <;> simp_all [Part.same]⟩, _, rfl⟩

end Sys2Proof.Machine
end

section
/-! Proofs about the loads of Vx (40_alu.md R120, R122; 45_timers_keys_random.md R181). -/

namespace Sys2Proof.Machine

section LoadsOfVx
variable (s : State) (x y : RegId)

theorem exec_ldVxNn (nn : Byte) : exec (.ldVxNn x nn) s = .next (s.setV x nn) := rfl

theorem exec_ldVxVy : exec (.ldVxVy x y) s = .next (s.setV x (s.getV y)) := rfl

theorem exec_ldVxDt : exec (.ldVxDt x) s = .next (s.setV x s.dt) := rfl

/-- A register write meets `WritesV`: the shared end of every instruction whose only effect is one `setV`. -/
theorem writesV_next_setV (b : Byte) : WritesV (.next (s.setV x b)) s x b := by
  refine ⟨s.setV x b, rfl, ?written, ?others, onlyChanges_setV s x b⟩
  case written => rw [State.getV_setV, if_pos rfl]
  case others =>
    intro r hr
    rw [State.getV_setV, if_neg hr]

end LoadsOfVx

/-- Settles O6: each load is one `setV`, whose operand is read in the state before the write. -/
theorem loadsWriteVxOnly : Obligations.LoadsWriteVxOnly := by
  intro x y nn s
  refine ⟨?immediate, ?register, ?delayTimer⟩
  case immediate => rw [exec_ldVxNn]; exact writesV_next_setV s x nn
  case register => rw [exec_ldVxVy]; exact writesV_next_setV s x (s.getV y)
  case delayTimer => rw [exec_ldVxDt]; exact writesV_next_setV s x s.dt

end Sys2Proof.Machine
end

section
/-! Proofs about the jumps (41_control_flow.md R140, R143). -/

namespace Sys2Proof.Machine

theorem addrOf_eq_ofNat (nnn : BitVec 12) : addrOf nnn = BitVec.ofNat 16 nnn.toNat :=
  (BitVec.ofNat_toNat 16 nnn).symm

theorem wide_eq_ofNat (b : Byte) : wide b = BitVec.ofNat 16 b.toNat :=
  (BitVec.ofNat_toNat 16 b).symm

section Jumps
variable (s : State) (nnn : BitVec 12)

theorem exec_jpNnn : exec (.jpNnn nnn) s = .next (s.setPc (addrOf nnn)) := rfl

theorem exec_jpV0Nnn : exec (.jpV0Nnn nnn) s = .next (s.setPc (addrOf nnn + wide (s.getV 0))) := rfl

/-- A pc write meets `JumpsTo`: the shared end of every instruction whose only effect is one `setPc`. -/
theorem jumpsTo_next_setPc (w : Word) : JumpsTo (.next (s.setPc w)) s w :=
  ⟨s.setPc w, rfl, State.setPc_pc s w, onlyChanges_setPc s w⟩

end Jumps

/-- Settles O12: each jump is one `setPc`, and a 16-bit sum of zero-extended operands is the sum of their numbers
taken modulo 65536. -/
theorem jumpsSetThePc : Obligations.JumpsSetThePc := by
  intro nnn s
  constructor
  case left =>
    rw [exec_jpNnn, addrOf_eq_ofNat]
    exact jumpsTo_next_setPc s _
  case right =>
    rw [exec_jpV0Nnn, addrOf_eq_ofNat, wide_eq_ofNat, ← BitVec.ofNat_add]
    exact jumpsTo_next_setPc s _

end Sys2Proof.Machine
end

section
/-! Proofs about the skips that compare registers (42_skips.md R150 to R153, R156). -/

namespace Sys2Proof.Machine

section RegisterSkips
variable (s : State) (x y : RegId)

theorem exec_seVxNn (nn : Byte) : exec (.seVxNn x nn) s = .next (s.skipIf (s.getV x == nn)) := rfl

theorem exec_sneVxNn (nn : Byte) : exec (.sneVxNn x nn) s = .next (s.skipIf (s.getV x != nn)) := rfl

theorem exec_seVxVy : exec (.seVxVy x y) s = .next (s.skipIf (s.getV x == s.getV y)) := rfl

theorem exec_sneVxVy : exec (.sneVxVy x y) s = .next (s.skipIf (s.getV x != s.getV y)) := rfl

/-- A conditional skip meets `SkipsWhen` for whatever proposition its Boolean decides: the shared end of every skip. -/
theorem skipsWhen_next_skipIf {c : Bool} {p : Prop} (hc : c = true ↔ p) : SkipsWhen (.next (s.skipIf c)) s p := by
  rw [State.skipIf_eq]
  refine ⟨_, rfl, ?taken, ?untaken, onlyChanges_setPc s _⟩
  case taken =>
    intro hp
    rw [State.setPc_pc, if_pos (hc.mpr hp)]
  case untaken =>
    intro hp
    rw [State.setPc_pc, if_neg (mt hc.mp hp)]

end RegisterSkips

/-- Settles O16: each register skip is one `skipIf`, whose Boolean test decides the comparison of its rule. -/
theorem skipsCompareRegisters : Obligations.SkipsCompareRegisters := by
  intro x y nn s
  refine ⟨?equalImmediate, ?unequalImmediate, ?equalRegisters, ?unequalRegisters⟩
  case equalImmediate => rw [exec_seVxNn]; exact skipsWhen_next_skipIf s beq_iff_eq
  case unequalImmediate => rw [exec_sneVxNn]; exact skipsWhen_next_skipIf s bne_iff_ne
  case equalRegisters => rw [exec_seVxVy]; exact skipsWhen_next_skipIf s beq_iff_eq
  case unequalRegisters => rw [exec_sneVxVy]; exact skipsWhen_next_skipIf s bne_iff_ne

end Sys2Proof.Machine
end

section
/-! Proofs about clearing the screen (43_draw.md R160). -/

namespace Sys2Proof.Machine

section ClearScreen
variable (s : State)

theorem exec_cls : exec .cls s = .next (s.setFb blankFrame) := rfl

/-- After a framebuffer write the state's pixels are those of the new frame. -/
@[simp] theorem State.pixel_setFb (f : Frame) (x : Fin 64) (y : Fin 32) :
    (s.setFb f).pixel x y = framePixel f x y := rfl

end ClearScreen

/-- Settles O18: `CLS` is one `setFb` of the blank frame. -/
theorem clearScreenClearsEveryPixel : Obligations.ClearScreenClearsEveryPixel := by
  intro s
  refine ⟨s.setFb blankFrame, exec_cls s, ?cleared, onlyChanges_setFb s blankFrame⟩
  case cleared =>
    intro x y
    rw [State.pixel_setFb, framePixel_blank]

end Sys2Proof.Machine
end

section
/-! Proofs about the load of I (44_index_memory.md R170). -/

namespace Sys2Proof.Machine

/-- Zero extension to a word keeps the number. -/
theorem addrOf_toNat (nnn : BitVec 12) : (addrOf nnn).toNat = nnn.toNat :=
  BitVec.toNat_setWidth_of_le (by decide)

theorem exec_ldINnn (nnn : BitVec 12) (s : State) : exec (.ldINnn nnn) s = .next (s.setI (addrOf nnn)) := rfl

/-- Settles O21: `LD I, NNN` is one `setI` of the zero-extended operand. -/
theorem indexLoadWritesI : Obligations.IndexLoadWritesI := by
  intro nnn s
  refine ⟨s.setI (addrOf nnn), exec_ldINnn nnn s, ?written, onlyChanges_setI s (addrOf nnn)⟩
  case written => rw [State.setI_i, addrOf_toNat]

end Sys2Proof.Machine
end

section
/-! Proofs about the timer loads (45_timers_keys_random.md R182, R183). -/

namespace Sys2Proof.Machine

section TimerLoads
variable (s : State) (x : RegId)

theorem exec_ldDtVx : exec (.ldDtVx x) s = .next (s.setDt (s.getV x)) := rfl

theorem exec_ldStVx : exec (.ldStVx x) s = .next (s.setSt (s.getV x)) := rfl

/-- The Boolean output `sound_active` decides that the sound timer's number is positive. -/
theorem State.soundActive_iff : s.soundActive = true ↔ s.st.toNat > 0 := by
  have hzero : s.st = 0 ↔ s.st.toNat = 0 := BitVec.toNat_inj.symm
  calc s.soundActive = true ↔ s.st ≠ 0 := bne_iff_ne
    _ ↔ s.st.toNat ≠ 0 := not_congr hzero
    _ ↔ s.st.toNat > 0 := Nat.pos_iff_ne_zero.symm

end TimerLoads

/-- Settles O29: each timer load is one write of its timer, and `sound_active` is a function of the ST just written. -/
theorem timerLoadsWriteTheirTimer : Obligations.TimerLoadsWriteTheirTimer := by
  intro x s
  constructor
  case left => exact ⟨s.setDt (s.getV x), exec_ldDtVx s x, State.setDt_dt s _, onlyChanges_setDt s _⟩
  case right =>
    refine ⟨s.setSt (s.getV x), exec_ldStVx s x, State.setSt_st s _, ?sound, onlyChanges_setSt s _⟩
    case sound => rw [State.soundActive_iff, State.setSt_st]

end Sys2Proof.Machine
end

section
/-! Proofs about decoding and encoding (30_encoding.md R91 to R95): a word is its fields put together, a row's mask
tests some of the fields, and the number of a word is the sum of its fields' numbers in their places. -/

namespace Sys2Proof

/-- Every instruction's word selects the row that gives the instruction back. -/
theorem encode_selects_row (i : Instr) : Laws.EncodesToItsRow.Statement i := by
  cases i with
  | cls => exact Laws.EncodesToItsRow.cls
  | ret => exact Laws.EncodesToItsRow.ret
  | jpNnn nnn => exact Laws.EncodesToItsRow.jpNnn nnn
  | callNnn nnn => exact Laws.EncodesToItsRow.callNnn nnn
  | seVxNn x nn => exact Laws.EncodesToItsRow.seVxNn x nn
  | sneVxNn x nn => exact Laws.EncodesToItsRow.sneVxNn x nn
  | seVxVy x y => exact Laws.EncodesToItsRow.seVxVy x y
  | ldVxNn x nn => exact Laws.EncodesToItsRow.ldVxNn x nn
  | addVxNn x nn => exact Laws.EncodesToItsRow.addVxNn x nn
  | ldVxVy x y => exact Laws.EncodesToItsRow.ldVxVy x y
  | orVxVy x y => exact Laws.EncodesToItsRow.orVxVy x y
  | andVxVy x y => exact Laws.EncodesToItsRow.andVxVy x y
  | xorVxVy x y => exact Laws.EncodesToItsRow.xorVxVy x y
  | addVxVy x y => exact Laws.EncodesToItsRow.addVxVy x y
  | subVxVy x y => exact Laws.EncodesToItsRow.subVxVy x y
  | shrVxVy x y => exact Laws.EncodesToItsRow.shrVxVy x y
  | subnVxVy x y => exact Laws.EncodesToItsRow.subnVxVy x y
  | shlVxVy x y => exact Laws.EncodesToItsRow.shlVxVy x y
  | sneVxVy x y => exact Laws.EncodesToItsRow.sneVxVy x y
  | ldINnn nnn => exact Laws.EncodesToItsRow.ldINnn nnn
  | jpV0Nnn nnn => exact Laws.EncodesToItsRow.jpV0Nnn nnn
  | rndVxNn x nn => exact Laws.EncodesToItsRow.rndVxNn x nn
  | drwVxVyN x y n => exact Laws.EncodesToItsRow.drwVxVyN x y n
  | skpVx x => exact Laws.EncodesToItsRow.skpVx x
  | sknpVx x => exact Laws.EncodesToItsRow.sknpVx x
  | ldVxDt x => exact Laws.EncodesToItsRow.ldVxDt x
  | ldVxK x => exact Laws.EncodesToItsRow.ldVxK x
  | ldDtVx x => exact Laws.EncodesToItsRow.ldDtVx x
  | ldStVx x => exact Laws.EncodesToItsRow.ldStVx x
  | addIVx x => exact Laws.EncodesToItsRow.addIVx x
  | ldFVx x => exact Laws.EncodesToItsRow.ldFVx x
  | ldBVx x => exact Laws.EncodesToItsRow.ldBVx x
  | ldMemVx x => exact Laws.EncodesToItsRow.ldMemVx x
  | ldVxMem x => exact Laws.EncodesToItsRow.ldVxMem x

theorem decodeWord_encode (i : Instr) : decodeWord (encode i) = some i := by
  obtain ⟨r, hr, hsel, hbuild⟩ := encode_selects_row i
  rw [decodeWord_of_selects hr hsel, hbuild]

theorem wordOfBytes_hiByte_loByte (op : Word) : wordOfBytes (hiByte op) (loByte op) = op := by
  apply BitVec.eq_of_getLsbD_eq
  intro j hj
  have happend : (wordOfBytes (hiByte op) (loByte op)).getLsbD j =
      if j < 8 then (loByte op).getLsbD j else (hiByte op).getLsbD (j - 8) := BitVec.getLsbD_append
  rw [happend]
  split
  case isTrue hlo => simp [loByte, hlo]
  case isFalse hhi => simp [hiByte, show j - 8 < 8 by omega, show 8 + (j - 8) = j by omega]

/-- What the byte decoder gives on two bytes that decode. -/
theorem decode_of_decodeWord {hi lo : Byte} {i : Instr} (rest : List Byte)
    (h : decodeWord (wordOfBytes hi lo) = some i) : decode (hi :: lo :: rest) = .ok (i, rest) := by
  simp [decode, h]

/-- Settles O1: the encoded word selects the instruction's own row of the map, and no two rows overlap. -/
theorem decodingAnEncodedInstructionGivesItBack : Obligations.DecodingAnEncodedInstructionGivesItBack := by
  intro i rest
  have hword : decodeWord (wordOfBytes (hiByte (encode i)) (loByte (encode i))) = some i := by
    rw [wordOfBytes_hiByte_loByte, decodeWord_encode]
  exact decode_of_decodeWord rest hword

section Reassembly
variable (op : Word)

/-- A nibble field's bits are the word's bits from the field's place on. -/
theorem nibble_toFin_extract_bit (start j : Nat) (hj : j < 4) :
    (nibble (op.extractLsb' start 4).toFin).getLsbD j = op.getLsbD (start + j) := by
  have hfield : nibble (op.extractLsb' start 4).toFin = op.extractLsb' start 4 := rfl
  rw [hfield]
  simp [hj]

theorem fieldC_bit (j : Nat) (hj : j < 4) : (fieldC op).getLsbD j = op.getLsbD (12 + j) := by simp [fieldC, hj]

theorem encodeNNN_fields : encodeNNN (fieldC op) (fieldNNN op) = op := by
  apply BitVec.eq_of_getLsbD_eq
  intro j hj
  rw [encodeNNN_bit]
  split
  case isTrue hlo => simp [fieldNNN, hlo]
  case isFalse hhi => rw [fieldC_bit op _ (by omega), show 12 + (j - 12) = j by omega]

theorem encodeXNN_fields : encodeXNN (fieldC op) (fieldX op) (fieldNN op) = op := by
  apply BitVec.eq_of_getLsbD_eq
  intro j hj
  rw [encodeXNN_bit]
  split
  case isTrue hlo => simp [fieldNN, hlo]
  case isFalse h8 =>
    split
    case isTrue hx => rw [fieldX, nibble_toFin_extract_bit op 8 _ (by omega), show 8 + (j - 8) = j by omega]
    case isFalse hhi => rw [fieldC_bit op _ (by omega), show 12 + (j - 12) = j by omega]

theorem encodeXYN_fields : encodeXYN (fieldC op) (fieldX op) (fieldY op) (fieldN op) = op := by
  apply BitVec.eq_of_getLsbD_eq
  intro j hj
  rw [encodeXYN_bit]
  split
  case isTrue hlo => rw [fieldN, nibble_toFin_extract_bit op 0 _ hlo, Nat.zero_add]
  case isFalse h4 =>
    split
    case isTrue hy => rw [fieldY, nibble_toFin_extract_bit op 4 _ (by omega), show 4 + (j - 4) = j by omega]
    case isFalse h8 =>
      split
      case isTrue hx => rw [fieldX, nibble_toFin_extract_bit op 8 _ (by omega), show 8 + (j - 8) = j by omega]
      case isFalse hhi => rw [fieldC_bit op _ (by omega), show 12 + (j - 12) = j by omega]

end Reassembly

section MaskTests
variable {op : Word}

theorem fieldC_encodeXNN (c : BitVec 4) (x : RegId) (nn : Byte) : fieldC (encodeXNN c x nn) = c := by
  apply BitVec.eq_of_getLsbD_eq
  intro j hj
  rw [fieldC_bit _ j hj, encodeXNN_bit, if_neg (by omega), if_neg (by omega), show 12 + j - 12 = j by omega]

theorem fieldC_encodeXYN (c : BitVec 4) (x y : RegId) (n : Fin 16) : fieldC (encodeXYN c x y n) = c := by
  apply BitVec.eq_of_getLsbD_eq
  intro j hj
  rw [fieldC_bit _ j hj, encodeXYN_bit, if_neg (by omega), if_neg (by omega), if_neg (by omega),
    show 12 + j - 12 = j by omega]

/-- The class mask tests the class nibble alone. -/
theorem selects_class_iff {p : Word} (hp : encodeXNN (fieldC p) 0 0 = p) {b : Word → Instr} :
    (OpcodeRow.mk 0xF000 p b).selects op = true ↔ fieldC op = fieldC p := by
  simp only [OpcodeRow.selects, beq_iff_eq]
  rw [← encodeXNN_fields op, encodeXNN_and_class, fieldC_encodeXNN]
  constructor
  · intro h
    rw [← h, fieldC_encodeXNN]
  · exact fun h => by rw [h, hp]

/-- The mask of format XY tests the class nibble and the last nibble. -/
theorem selects_sub_iff {p : Word} (hp : encodeXYN (fieldC p) 0 0 (fieldN p) = p) {b : Word → Instr} :
    (OpcodeRow.mk 0xF00F p b).selects op = true ↔ fieldC op = fieldC p ∧ fieldN op = fieldN p := by
  simp only [OpcodeRow.selects, beq_iff_eq]
  rw [← encodeXYN_fields op, encodeXYN_and_sub, fieldC_encodeXYN, fieldN_encodeXYN]
  constructor
  · intro h
    rw [← h, fieldC_encodeXYN, fieldN_encodeXYN]
    exact ⟨rfl, rfl⟩
  · rintro ⟨hc, hn⟩
    rw [hc, hn, hp]

/-- The mask of format X tests the class nibble and the low byte. -/
theorem selects_low_iff {p : Word} (hp : encodeXNN (fieldC p) 0 (fieldNN p) = p) {b : Word → Instr} :
    (OpcodeRow.mk 0xF0FF p b).selects op = true ↔ fieldC op = fieldC p ∧ fieldNN op = fieldNN p := by
  simp only [OpcodeRow.selects, beq_iff_eq]
  rw [← encodeXNN_fields op, encodeXNN_and_sub, fieldC_encodeXNN, fieldNN_encodeXNN]
  constructor
  · intro h
    rw [← h, fieldC_encodeXNN, fieldNN_encodeXNN]
    exact ⟨rfl, rfl⟩
  · rintro ⟨hc, hnn⟩
    rw [hc, hnn, hp]

/-- The full mask tests the whole word. -/
theorem selects_word_iff {p : Word} {b : Word → Instr} : (OpcodeRow.mk 0xFFFF p b).selects op = true ↔ op = p := by
  rw [OpcodeRow.selects, beq_iff_eq, show op &&& 0xFFFF = op from BitVec.and_allOnes]

end MaskTests

/-- A row gives back the word: encoding what it builds from a word that selects it is that word. -/
def OpcodeRow.Invertible (r : OpcodeRow) : Prop := ∀ op, r.selects op = true → encode (r.build op) = op

section InvertibleRows
variable {p : Word} {b : Word → Instr}

theorem invertible_word (hb : ∀ op, encode (b op) = p) : (OpcodeRow.mk 0xFFFF p b).Invertible := by
  intro op h
  rw [hb, selects_word_iff.mp h]

theorem invertible_nnn (hp : encodeXNN (fieldC p) 0 0 = p)
    (hb : ∀ op, encode (b op) = encodeNNN (fieldC p) (fieldNNN op)) :
    (OpcodeRow.mk 0xF000 p b).Invertible := by
  intro op h
  rw [hb, ← (selects_class_iff hp).mp h, encodeNNN_fields]

theorem invertible_xnn (hp : encodeXNN (fieldC p) 0 0 = p)
    (hb : ∀ op, encode (b op) = encodeXNN (fieldC p) (fieldX op) (fieldNN op)) :
    (OpcodeRow.mk 0xF000 p b).Invertible := by
  intro op h
  rw [hb, ← (selects_class_iff hp).mp h, encodeXNN_fields]

theorem invertible_xyn (hp : encodeXNN (fieldC p) 0 0 = p)
    (hb : ∀ op, encode (b op) = encodeXYN (fieldC p) (fieldX op) (fieldY op) (fieldN op)) :
    (OpcodeRow.mk 0xF000 p b).Invertible := by
  intro op h
  rw [hb, ← (selects_class_iff hp).mp h, encodeXYN_fields]

theorem invertible_xy (hp : encodeXYN (fieldC p) 0 0 (fieldN p) = p)
    (hb : ∀ op, encode (b op) = encodeXYN (fieldC p) (fieldX op) (fieldY op) (fieldN p)) :
    (OpcodeRow.mk 0xF00F p b).Invertible := by
  intro op h
  obtain ⟨hc, hn⟩ := (selects_sub_iff hp).mp h
  rw [hb, ← hc, ← hn, encodeXYN_fields]

theorem invertible_x (hp : encodeXNN (fieldC p) 0 (fieldNN p) = p)
    (hb : ∀ op, encode (b op) = encodeXNN (fieldC p) (fieldX op) (fieldNN p)) :
    (OpcodeRow.mk 0xF0FF p b).Invertible := by
  intro op h
  obtain ⟨hc, hnn⟩ := (selects_low_iff hp).mp h
  rw [hb, ← hc, ← hnn, encodeXNN_fields]

end InvertibleRows

theorem rowsLow_invertible : ∀ r ∈ rowsLow, r.Invertible := by
  simp only [rowsLow, List.forall_mem_cons]
  exact ⟨invertible_word fun _ => rfl, invertible_word fun _ => rfl,
    invertible_nnn rfl fun _ => rfl, invertible_nnn rfl fun _ => rfl,
    invertible_xnn rfl fun _ => rfl, invertible_xnn rfl fun _ => rfl, invertible_xy rfl fun _ => rfl,
    invertible_xnn rfl fun _ => rfl, invertible_xnn rfl fun _ => rfl, List.forall_mem_nil _⟩

theorem rowsAlu_invertible : ∀ r ∈ rowsAlu, r.Invertible := by
  simp only [rowsAlu, List.forall_mem_cons]
  exact ⟨invertible_xy rfl fun _ => rfl, invertible_xy rfl fun _ => rfl, invertible_xy rfl fun _ => rfl,
    invertible_xy rfl fun _ => rfl, invertible_xy rfl fun _ => rfl, invertible_xy rfl fun _ => rfl,
    invertible_xy rfl fun _ => rfl, invertible_xy rfl fun _ => rfl, invertible_xy rfl fun _ => rfl,
    List.forall_mem_nil _⟩

theorem rowsMid_invertible : ∀ r ∈ rowsMid, r.Invertible := by
  simp only [rowsMid, List.forall_mem_cons]
  exact ⟨invertible_xy rfl fun _ => rfl, invertible_nnn rfl fun _ => rfl, invertible_nnn rfl fun _ => rfl,
    invertible_xnn rfl fun _ => rfl, invertible_xyn rfl fun _ => rfl, invertible_x rfl fun _ => rfl,
    invertible_x rfl fun _ => rfl, List.forall_mem_nil _⟩

theorem rowsHigh_invertible : ∀ r ∈ rowsHigh, r.Invertible := by
  simp only [rowsHigh, List.forall_mem_cons]
  exact ⟨invertible_x rfl fun _ => rfl, invertible_x rfl fun _ => rfl, invertible_x rfl fun _ => rfl,
    invertible_x rfl fun _ => rfl, invertible_x rfl fun _ => rfl, invertible_x rfl fun _ => rfl,
    invertible_x rfl fun _ => rfl, invertible_x rfl fun _ => rfl, invertible_x rfl fun _ => rfl,
    List.forall_mem_nil _⟩

theorem opcodeMap_invertible : ∀ r ∈ opcodeMap, r.Invertible := by
  simp only [opcodeMap, List.forall_mem_append]
  exact ⟨⟨⟨rowsLow_invertible, rowsAlu_invertible⟩, rowsMid_invertible⟩, rowsHigh_invertible⟩

/-- Settles O2: the decoded instruction comes from a row of the map, and every row gives its word back. -/
theorem encodingADecodedWordGivesItBack : Obligations.EncodingADecodedWordGivesItBack := by
  intro op i h
  obtain ⟨r, hr, hsel, rfl⟩ := decodeWord_eq_some h
  exact opcodeMap_invertible r hr op hsel

/-- The classes of the map: one row for the whole class, the two fixed words, or sub-opcodes. -/
theorem class_cases (c : BitVec 4) : c ∈ [(1 : BitVec 4), 2, 3, 4, 6, 7, 0xA, 0xB, 0xC, 0xD] ∨ c = 0 ∨ c = 8 ∨
    c ∈ [(5 : BitVec 4), 9, 0xE, 0xF] := by
  revert c; decide

/-- The words of the two fixed rows are of class 0. -/
theorem ne_fixed_words_of_class {op : Word} (h : fieldC op ≠ 0) : op ≠ 0x00E0#16 ∧ op ≠ 0x00EE#16 :=
  ⟨fun he => h (by rw [he]; decide), fun he => h (by rw [he]; decide)⟩

/-- Settles O3: class by class, the fields that select no row are the listed ones. -/
theorem unknownWordsAreExactlyTheListedOnes : Obligations.UnknownWordsAreExactlyTheListedOnes := by
  intro op
  have hfixed := @ne_fixed_words_of_class op
  simp only [decodeWord_eq_none, opcodeMap, rowsLow, rowsAlu, rowsMid, rowsHigh, List.forall_mem_append,
    List.forall_mem_cons, ← Bool.not_eq_true, selects_word_iff]
  simp (disch := decide) only [selects_class_iff, selects_sub_iff, selects_low_iff]
  generalize fieldC op = c at *
  generalize fieldN op = n at *
  generalize fieldNN op = nn at *
  simp only [fieldC, fieldN, fieldNN, BitVec.reduceExtractLsb']
  rcases class_cases c with hwhole | rfl | rfl | hsub
  · fin_cases hwhole <;> simp
  · simp
  · obtain ⟨hcls, hret⟩ := hfixed (by decide)
    simp [hcls, hret]
    revert n
    decide
  · obtain ⟨hcls, hret⟩ := hfixed (by rintro rfl; simp at hsub)
    fin_cases hsub <;> simp [hcls, hret]

section Numbers
variable (c : BitVec 4) (x y n : Fin 16) (nn : Byte) (nnn : BitVec 12)

theorem nibble_toNat : (nibble x).toNat = x.val := rfl

/-- Two fields side by side, as a number. -/
theorem toNat_append_eq {k m : Nat} (a : BitVec k) (b : BitVec m) : (a ++ b).toNat = a.toNat * 2 ^ m + b.toNat := by
  rw [BitVec.toNat_append, Nat.shiftLeft_eq, Nat.mul_comm, ← Nat.two_pow_add_eq_or_of_lt b.isLt]

theorem encodeNNN_toNat : (encodeNNN c nnn).toNat = 4096 * c.toNat + nnn.toNat := by
  rw [encodeNNN, toNat_append_eq]
  omega

theorem encodeXNN_toNat : (encodeXNN c x nn).toNat = 4096 * c.toNat + 256 * x.val + nn.toNat := by
  rw [encodeXNN, toNat_append_eq, toNat_append_eq, nibble_toNat]
  omega

theorem encodeXYN_toNat : (encodeXYN c x y n).toNat = 4096 * c.toNat + 256 * x.val + 16 * y.val + n.val := by
  rw [encodeXYN, toNat_append_eq, toNat_append_eq, toNat_append_eq, nibble_toNat, nibble_toNat, nibble_toNat]
  omega

end Numbers

/-- Settles O4: format by format, an encoded word is the sum of its fields' numbers in their places. -/
theorem everyInstructionHasItsTablePattern : Obligations.EveryInstructionHasItsTablePattern := by
  refine ⟨by decide, by decide, ?nnn, ?xnn, ?xy, ?x⟩
  case nnn =>
    intro nnn
    simp [encode, encodeNNN_toNat]
  case xnn =>
    intro x nn
    simp [encode, encodeXNN_toNat]
  case xy =>
    intro x y
    simp [encode, encodeXYN_toNat]
    omega
  case x =>
    intro x
    simp [encode, encodeXNN_toNat]
    omega

/-- Settles O5: the listed words are fixed, and the decoder evaluates on each. -/
theorem exampleWordsDecode : Obligations.ExampleWordsDecode := by
  refine ⟨?_, ?_, ?_, ?_, ?_, ?_, ?_, ?_⟩ <;> decide

end Sys2Proof
end

section
/-! What each instruction is as updates of the state, and what `exec` can do, said once for all instructions: the
parts of the state it may change when it completes, or the entry of a fault. -/

namespace Sys2Proof.Machine

section Arms
variable (s : State) (x y : RegId)

theorem exec_ret : exec .ret s = s.orRaise s.pop (fun p => p.2.setPc p.1) := rfl

theorem exec_callNnn (nnn : BitVec 12) :
    exec (.callNnn nnn) s = s.orRaise s.push (fun t => t.setPc (addrOf nnn)) := rfl

theorem exec_drwVxVyN (n : Fin 16) : exec (.drwVxVyN x y n) s = s.orRaise (s.mem.load s.i.toNat n)
    fun rows => (s.setFb (s.draw x y rows).frame).setFlag (s.draw x y rows).hit := rfl

theorem exec_ldBVx : exec (.ldBVx x) s = s.orRaise (s.mem.store s.i.toNat (bcdDigits (s.getV x)))
    fun m => s.setMem m := rfl

theorem exec_ldMemVx : exec (.ldMemVx x) s = s.orRaise (s.mem.store s.i.toNat (s.dumpBytes x))
    fun m => (s.setMem m).setI (s.indexAfter x) := rfl

theorem exec_ldVxMem : exec (.ldVxMem x) s = s.orRaise (s.mem.load s.i.toNat (x.val + 1))
    fun bs => (s.loadRegs bs).setI (s.indexAfter x) := rfl

end Arms

/-- The parts of the state that a completing instruction may change. -/
def changedParts : Instr → List Part
  | .cls => [.framebuffer]
  | .ret | .callNnn _ => [.callStack, .pc]
  | .jpNnn _ | .jpV0Nnn _ | .seVxNn _ _ | .sneVxNn _ _ | .seVxVy _ _ | .sneVxVy _ _ | .skpVx _ | .sknpVx _ => [.pc]
  | .ldVxNn _ _ | .addVxNn _ _ | .ldVxVy _ _ | .orVxVy _ _ | .andVxVy _ _ | .xorVxVy _ _ | .addVxVy _ _
  | .subVxVy _ _ | .shrVxVy _ _ | .subnVxVy _ _ | .shlVxVy _ _ | .ldVxDt _ => [.v]
  | .ldINnn _ | .addIVx _ | .ldFVx _ => [.i]
  | .rndVxNn _ _ => [.v, .draws]
  | .drwVxVyN _ _ _ => [.framebuffer, .v]
  | .ldVxK _ => [.keyWait]
  | .ldDtVx _ => [.dt]
  | .ldStVx _ => [.st]
  | .ldBVx _ => [.memory]
  | .ldMemVx _ => [.memory, .i]
  | .ldVxMem _ => [.v, .i]

/-- A change of one part and then of another. -/
theorem OnlyChanges.trans_pair {p q : Part} {s t u : State} (h : OnlyChanges [p] s t) (h' : OnlyChanges [q] t u) :
    OnlyChanges [p, q] s u :=
  (h.mono (by simp)).trans (h'.mono (by simp))

theorem onlyChanges_skipIf (s : State) (c : Bool) : OnlyChanges [.pc] s (s.skipIf c) := by
  rw [State.skipIf_eq]
  exact onlyChanges_setPc s _

theorem onlyChanges_setResultFlag (s : State) (x : RegId) (b : Byte) (f : Bool) :
    OnlyChanges [.v] s (s.setResultFlag x b f) :=
  (onlyChanges_setV s x b).trans (onlyChanges_setV _ RegId.vf _)

/-- Everything `exec` can do: the instruction completes within its own parts, or a fault is entered. -/
theorem exec_cases {i : Instr} {s t : State} (h : exec i s = .next t) :
    OnlyChanges (changedParts i) s t ∨ ∃ r, t = s.raise r := by
  cases i with
  | ret =>
    rcases State.orRaise_cases h with ⟨p, hp, rfl⟩ | ⟨r, -, rfl⟩
    · exact .inl ((onlyChanges_pop hp).trans_pair (onlyChanges_setPc _ _))
    · exact .inr ⟨r, rfl⟩
  | callNnn nnn =>
    rcases State.orRaise_cases h with ⟨u, hu, rfl⟩ | ⟨r, -, rfl⟩
    · exact .inl ((onlyChanges_push hu).trans_pair (onlyChanges_setPc _ _))
    · exact .inr ⟨r, rfl⟩
  | drwVxVyN x y n =>
    rcases State.orRaise_cases h with ⟨rows, -, rfl⟩ | ⟨r, -, rfl⟩
    · exact .inl ((onlyChanges_setFb s _).trans_pair (onlyChanges_setV _ _ _))
    · exact .inr ⟨r, rfl⟩
  | ldBVx x =>
    rcases State.orRaise_cases h with ⟨m, -, rfl⟩ | ⟨r, -, rfl⟩
    · exact .inl (onlyChanges_setMem s m)
    · exact .inr ⟨r, rfl⟩
  | ldMemVx x =>
    rcases State.orRaise_cases h with ⟨m, -, rfl⟩ | ⟨r, -, rfl⟩
    · exact .inl ((onlyChanges_setMem s m).trans_pair (onlyChanges_setI _ _))
    · exact .inr ⟨r, rfl⟩
  | ldVxMem x =>
    rcases State.orRaise_cases h with ⟨bs, -, rfl⟩ | ⟨r, -, rfl⟩
    · exact .inl ((onlyChanges_loadRegs s bs).trans_pair (onlyChanges_setI _ _))
    · exact .inr ⟨r, rfl⟩
  | cls => cases h; exact .inl (onlyChanges_setFb s _)
  | jpNnn | jpV0Nnn => cases h; exact .inl (onlyChanges_setPc s _)
  | seVxNn | sneVxNn | seVxVy | sneVxVy | skpVx | sknpVx => cases h; exact .inl (onlyChanges_skipIf s _)
  | ldVxNn | addVxNn | ldVxVy | orVxVy | andVxVy | xorVxVy | ldVxDt => cases h; exact .inl (onlyChanges_setV s _ _)
  | addVxVy | subVxVy | subnVxVy | shrVxVy | shlVxVy => cases h; exact .inl (onlyChanges_setResultFlag s _ _ _)
  | rndVxNn =>
    cases h
    exact .inl ((onlyChanges_setV s _ _).trans_pair (onlyChanges_countDraw _))
  | ldINnn | addIVx | ldFVx => cases h; exact .inl (onlyChanges_setI s _)
  | ldVxK => cases h; exact .inl (onlyChanges_armKeyWait s _)
  | ldDtVx => cases h; exact .inl (onlyChanges_setDt s _)
  | ldStVx => cases h; exact .inl (onlyChanges_setSt s _)

/-- A part that is neither the instruction's own nor written by a fault entry is unchanged however `exec` ends. -/
theorem exec_same {i : Instr} {s t : State} (h : exec i s = .next t) {p : Part}
    (hp : p ∉ changedParts i ++ [.terminated, .fault]) : p.same s t := by
  rw [List.mem_append, not_or] at hp
  obtain ⟨hi, hf⟩ := hp
  rcases exec_cases h with ht | ⟨r, rfl⟩
  · exact ht p hi
  · exact onlyChanges_raise s r p hf

end Sys2Proof.Machine
end

section
/-! Proofs about what no instruction does: the statements over all instructions that follow from the parts each may
change. -/

namespace Sys2Proof.Machine

/-- Settles O53: only `CALL` and `RET` have the call stack among their parts. -/
theorem onlyCallAndReturnTouchTheStack : Obligations.OnlyCallAndReturnTouchTheStack := by
  intro i s t h hret hcall
  have hstack : Part.callStack.same s t := exec_same h (by cases i <;> simp_all [changedParts])
  exact hstack

/-- Settles O54: memory is among the parts of the two stores alone, the framebuffer of `CLS` and `DRW` alone. -/
theorem onlyTheNamedInstructionsStoreOrDraw : Obligations.OnlyTheNamedInstructionsStoreOrDraw := by
  intro i s t h
  constructor
  case left =>
    intro hbcd hdump
    have hmem : Part.memory.same s t := exec_same h (by cases i <;> simp_all [changedParts])
    exact hmem
  case right =>
    intro hcls hdrw
    have hfb : Part.framebuffer.same s t := exec_same h (by cases i <;> simp_all [changedParts])
    exact hfb

/-- Settles O55: I, DT and ST are among the parts of the instructions that name them alone. -/
theorem onlyTheNamedInstructionsWriteIndexAndTimers : Obligations.OnlyTheNamedInstructionsWriteIndexAndTimers := by
  intro i s t h
  refine ⟨?index, ?delay, ?sound⟩
  case index =>
    intro hld hadd hfont hdump hload
    have hi : Part.i.same s t := exec_same h (by cases i <;> simp_all [changedParts])
    exact hi
  case delay =>
    intro hld
    have hdt : Part.dt.same s t := exec_same h (by cases i <;> simp_all [changedParts])
    exact hdt
  case sound =>
    intro hld
    have hst : Part.st.same s t := exec_same h (by cases i <;> simp_all [changedParts])
    exact hst

/-- Settles O57: the pc is among the parts of the control-flow instructions alone. -/
theorem pcAdvancesByTwoExceptControlFlow : Obligations.PcAdvancesByTwoExceptControlFlow := by
  intro i s t h hflow
  have hpc : Part.pc.same s t := exec_same h (by cases i <;> simp_all [changedParts, controlFlow])
  exact hpc

theorem raiseCode_ne_none (r : Raise) : raiseCode r ≠ .none := by cases r <;> simp [raiseCode]

/-- No instruction has the status, the inputs, the ROM image, the log or the script among its parts. -/
theorem changedParts_subset (i : Instr) : changedParts i ⊆
    [.v, .i, .pc, .callStack, .dt, .st, .memory, .framebuffer, .keyWait, .draws] := by
  cases i <;> simp [changedParts]

/-- No completing instruction terminates the core, so `terminated` newly set means a fault entry. -/
theorem terminated_notMem_changedParts (i : Instr) : Part.terminated ∉ changedParts i :=
  fun h => absurd (changedParts_subset i h) (by decide)

theorem fault_notMem_changedParts (i : Instr) : Part.fault ∉ changedParts i :=
  fun h => absurd (changedParts_subset i h) (by decide)

theorem rom_notMem_changedParts (i : Instr) : Part.rom ∉ changedParts i :=
  fun h => absurd (changedParts_subset i h) (by decide)

/-- Settles O58: a terminated answer can only be the fault entry, which writes two fields. -/
theorem faultingInstructionChangesNothingElse : Obligations.FaultingInstructionChangesNothingElse := by
  intro i s t hrun h hterm
  rcases exec_cases h with ht | ⟨r, rfl⟩
  case inl =>
    have hsame : t.terminated = s.terminated := ht _ (terminated_notMem_changedParts i)
    rw [hsame, hrun] at hterm
    cases hterm
  case inr => exact ⟨rfl, raiseCode_ne_none r⟩

end Sys2Proof.Machine
end

section
/-! What an execution pass answers, case by case on the state before it (30_encoding.md R96); the two outcomes of the
key-wait pass (45_timers_keys_random.md R185); `CALL` and `RET` by the stack depth; the events that
`terminated` stops. -/

namespace Sys2Proof.Machine

section Passes
variable {s : State}

theorem execPass_of_stopped (h : s.terminated = true ∨ s.pause = true) : execPass s = .next s := by
  by_cases ht : s.terminated = true
  · rw [execPass, if_pos ht]
  · rw [execPass, if_neg ht, if_pos (h.resolve_left ht)]

theorem execPass_of_awaiting (ht : s.terminated = false) (hp : s.pause = false) (hk : s.awaitingKey = true) :
    execPass s = .next s.keyWaitPass := by
  simp [execPass, ht, hp, hk]

theorem execPass_of_pc_gt (hrun : s.running) (hpc : 4094 < s.pc.toNat) :
    execPass s = .next (s.raise (rangeFault s.pc.toNat)) := by
  obtain ⟨ht, hp, hk⟩ := hrun
  have hfetch : s.fetch = .error (rangeFault s.pc.toNat) := by
    rcases s.fetch_cases with ⟨hle, -⟩ | ⟨-, hf⟩
    · omega
    · exact hf
  simp [execPass, ht, hp, hk, hfetch]

/-- The word that a fetch reads: the bytes at the pc, the high byte first (20_memory.md R63). -/
def State.wordAtPc (s : State) : Word := wordOfBytes (s.mem.read s.pc.toNat) (s.mem.read (s.pc.toNat + 1))

theorem fetch_of_pc_le (hpc : s.pc.toNat ≤ 4094) : s.fetch = .ok s.wordAtPc := by
  rcases s.fetch_cases with ⟨-, hf⟩ | ⟨hlt, -⟩
  · exact hf
  · omega

theorem execPass_of_pc_le (hrun : s.running) (hpc : s.pc.toNat ≤ 4094) :
    execPass s = runWord s.wordAtPc s.pc s.advance := by
  obtain ⟨ht, hp, hk⟩ := hrun
  simp [execPass, ht, hp, hk, fetch_of_pc_le hpc]

theorem runWord_of_some {op a : Word} {i : Instr} (h : decodeWord op = some i) : runWord op a s = exec i s := by
  simp [runWord, h]

theorem runWord_of_none {op a : Word} (h : decodeWord op = none) :
    runWord op a s = .next (s.logUnknown op a) := by
  simp [runWord, h]

/-- The four kinds of pass, by the state before it. -/
theorem pass_kinds (s : State) :
    (s.terminated = true ∨ s.pause = true) ∨
    (s.terminated = false ∧ s.pause = false ∧ s.awaitingKey = true) ∨
    (s.running ∧ 4094 < s.pc.toNat) ∨ (s.running ∧ s.pc.toNat ≤ 4094) := by
  cases ht : s.terminated <;> cases hp : s.pause <;> cases hk : s.awaitingKey <;>
    simp [State.running, ht, hp, hk, Nat.lt_or_ge]

theorem keyWaitPass_of_some {j : Nat} (h : lowestKey s.newlyPressed = some j) :
    s.keyWaitPass = { s.setV s.keyDest (BitVec.ofNat 8 j) with awaitingKey := false } := by
  simp [State.keyWaitPass, h]

theorem keyWaitPass_of_none (h : lowestKey s.newlyPressed = none) :
    s.keyWaitPass = { s with keyPrev := s.keys } := by
  simp [State.keyWaitPass, h]

end Passes

/-- A pass that ends the wait writes V registers and the wait's own fields. -/
theorem onlyChanges_endKeyWait (s : State) (x : RegId) (b : Byte) :
    OnlyChanges [.v, .keyWait] s { s.setV x b with awaitingKey := false } := by
  intro p hp; cases p <;> simp_all [Part.same]

theorem onlyChanges_keyPrev (s : State) (k : BitVec 16) : OnlyChanges [.keyWait] s { s with keyPrev := k } := by
  intro p hp; cases p <;> simp_all [Part.same]

theorem onlyChanges_keyWaitPass (s : State) : OnlyChanges [.v, .keyWait] s s.keyWaitPass := by
  cases hlow : lowestKey s.newlyPressed with
  | some j => rw [keyWaitPass_of_some hlow]; exact onlyChanges_endKeyWait s _ _
  | none => rw [keyWaitPass_of_none hlow]; exact (onlyChanges_keyPrev s _).mono (by simp)

section CallAndReturn
variable {s : State} (nnn : BitVec 12)

theorem exec_callNnn_of_lt (h : s.sp.val < 16) : exec (.callNnn nnn) s =
    .next { s with pc := addrOf nnn, stack := s.stack.set s.sp.val s.pc, sp := ⟨s.sp.val + 1, by omega⟩ } := by
  rcases s.push_cases with ⟨_, hpush⟩ | ⟨hfull, -⟩
  · rw [exec_callNnn, hpush]; rfl
  · simp [hfull] at h

theorem exec_callNnn_of_full (h : s.sp = 16) :
    exec (.callNnn nnn) s = .next (s.raise (.stackOverflow (s.pc - 2))) := by
  rcases s.push_cases with ⟨hlt, -⟩ | ⟨-, hpush⟩
  · simp [h] at hlt
  · rw [exec_callNnn, hpush]; rfl

theorem exec_ret_of_pos (h : 0 < s.sp.val) : exec .ret s =
    .next { s with pc := s.stack[s.sp.val - 1], sp := ⟨s.sp.val - 1, by omega⟩ } := by
  rcases s.pop_cases with ⟨_, hpop⟩ | ⟨hempty, -⟩
  · rw [exec_ret, hpop]; rfl
  · simp [hempty] at h

theorem exec_ret_of_empty (h : s.sp = 0) : exec .ret s = .next (s.raise (.stackUnderflow (s.pc - 2))) := by
  rcases s.pop_cases with ⟨hpos, -⟩ | ⟨-, hpop⟩
  · simp [h] at hpos
  · rw [exec_ret, hpop]; rfl

theorem sp_lt_or_full (s : State) : s.sp.val < 16 ∨ s.sp = 16 := by
  rcases Nat.lt_or_ge s.sp.val 16 with hlt | hge
  · exact .inl hlt
  · exact .inr (Fin.ext (by have := s.sp.isLt; simp; omega))

theorem sp_pos_or_empty (s : State) : 0 < s.sp.val ∨ s.sp = 0 := by
  rcases Nat.eq_zero_or_pos s.sp.val with hzero | hpos
  · exact .inr (Fin.ext hzero)
  · exact .inl hpos

end CallAndReturn

section Events
variable {s : State}

theorem tick_of_terminated (h : s.terminated = true) : s.tick = s := by simp [State.tick, h]

theorem tick_of_live (h : s.terminated = false) :
    s.tick = { s with dt := countDown s.dt, st := countDown s.st } := by simp [State.tick, h]

theorem softReset_of_terminated (h : s.terminated = true) : s.softReset = s := by simp [State.softReset, h]

theorem softReset_of_live (h : s.terminated = false) :
    s.softReset = { s.coreClear with mem := softResetMemory s.mem s.romImage } := by simp [State.softReset, h]

theorem loadRom_of_refused {img : List Byte} (h : wfRom img = false ∨ s.terminated = true) :
    s.loadRom img = s := by
  rcases h with h | h <;> simp [State.loadRom, h]

theorem loadRom_of_accepted {img : List Byte} (hfits : wfRom img = true) (h : s.terminated = false) :
    s.loadRom img = { s with romImage := img }.softReset := by simp [State.loadRom, hfits, h]

end Events

end Sys2Proof.Machine
end

section
/-! Proofs about every pass and every step: the inputs no pass writes, the answer every step gives, the invariant, and
the registers an instruction writes. -/

namespace Sys2Proof.Machine

/-- Settles O56: the three stops, the logged word and the key-wait pass write no input, and no instruction has the
inputs, the ROM image or the script among its parts. -/
theorem passesNeverChangeInputs : Obligations.PassesNeverChangeInputs := by
  intro s t h
  suffices hall : ∀ p ∈ [Part.inputs, .rom, .script], p.same s t from
    ⟨hall .inputs (by simp), hall .rom (by simp), hall .script (by simp)⟩
  intro p hp
  rcases execPass_cases h with ⟨-, rfl⟩ | ⟨-, rfl⟩ | ⟨-, rfl⟩ | ⟨op, -, rfl⟩ | ⟨i, hi⟩
  · exact Part.same_refl p t
  · exact onlyChanges_keyWaitPass s p (by fin_cases hp <;> simp)
  · exact onlyChanges_raise s _ p (by fin_cases hp <;> simp)
  · exact Part.same_trans (onlyChanges_setPc s _ p (by fin_cases hp <;> simp))
      (onlyChanges_logUnknown _ _ _ p (by fin_cases hp <;> simp))
  · have hkept : p ∉ changedParts i ++ [.terminated, .fault] := by
      rw [List.mem_append, not_or]
      exact ⟨fun hmem => absurd (changedParts_subset i hmem) (by fin_cases hp <;> simp), by fin_cases hp <;> simp⟩
    exact Part.same_trans (onlyChanges_setPc s _ p (by fin_cases hp <;> simp)) (exec_same hi hkept)

theorem orRaise_isNext {α : Type} (s : State) (e : Except Raise α) (k : α → State) :
    ∃ t, s.orRaise e k = .next t := by
  cases e with
  | ok a => exact ⟨k a, rfl⟩
  | error r => exact ⟨s.raise r, rfl⟩

theorem exec_isNext (i : Instr) (s : State) : ∃ t, exec i s = .next t := by
  cases i with
  | ret | callNnn | drwVxVyN | ldBVx | ldMemVx | ldVxMem => exact orRaise_isNext s _ _
  | _ => exact ⟨_, rfl⟩

theorem execPass_isNext (s : State) : ∃ t, execPass s = .next t := by
  rcases pass_kinds s with hstop | ⟨ht, hp, hk⟩ | ⟨hrun, hpc⟩ | ⟨hrun, hpc⟩
  · exact ⟨s, execPass_of_stopped hstop⟩
  · exact ⟨_, execPass_of_awaiting ht hp hk⟩
  · exact ⟨_, execPass_of_pc_gt hrun hpc⟩
  · rw [execPass_of_pc_le hrun hpc]
    cases hd : decodeWord s.wordAtPc with
    | some i => rw [runWord_of_some hd]; exact exec_isNext i _
    | none => exact ⟨_, runWord_of_none hd⟩

theorem deliver_of_ne_exec {e : Event} (he : e ≠ .exec) (s : State) : deliver e s = .next (s.hostEvent e) := by
  cases e with
  | exec => exact absurd rfl he
  | _ => rfl

theorem step_of_script_nil {s : State} (h : s.script = []) : step s = execPass s := by simp [step, h]

theorem step_of_script_cons {s : State} {e : Event} {rest : List Event} (h : s.script = e :: rest) :
    step s = deliver e { s with script := rest } := by simp [step, h]

/-- Everything a step can be: a pass, or the effect of a host event; each on the state with some script. -/
theorem step_kinds (s : State) : ∃ rest, step s = execPass { s with script := rest } ∨
    ∃ e, step s = .next ({ s with script := rest }.hostEvent e) := by
  cases hs : s.script with
  | nil => exact ⟨[], .inl (by rw [step_of_script_nil hs, ← hs])⟩
  | cons e rest =>
    refine ⟨rest, ?_⟩
    rw [step_of_script_cons hs]
    by_cases he : e = .exec
    · exact .inl (by rw [he]; rfl)
    · exact .inr ⟨e, deliver_of_ne_exec he _⟩

/-- Settles O52: a pass of each kind answers a next state, and a host event is a function of the state. -/
theorem everyStepAnswersANextState : Obligations.EveryStepAnswersANextState := by
  intro s
  obtain ⟨rest, hpass | ⟨e, hevent⟩⟩ := step_kinds s
  · rw [hpass]
    exact execPass_isNext _
  · exact ⟨_, hevent⟩

section Invariant
variable {s t : State}

/-- An instruction leaves memory, or replaces it by what a store answers. -/
theorem exec_mem_cases {i : Instr} (h : exec i s = .next t) :
    t.mem = s.mem ∨ ∃ base bs, s.mem.store base bs = .ok t.mem := by
  cases i with
  | ldBVx | ldMemVx =>
    rcases State.orRaise_cases h with ⟨m, hm, rfl⟩ | ⟨r, -, rfl⟩
    · exact .inr ⟨_, _, hm⟩
    · exact .inl rfl
  | drwVxVyN | ldVxMem => rcases State.orRaise_cases h with ⟨_, -, rfl⟩ | ⟨r, -, rfl⟩ <;> exact .inl rfl
  | callNnn nnn =>
    rcases sp_lt_or_full s with hlt | hfull
    · rw [exec_callNnn_of_lt nnn hlt] at h; cases h; exact .inl rfl
    · rw [exec_callNnn_of_full nnn hfull] at h; cases h; exact .inl rfl
  | ret =>
    rcases sp_pos_or_empty s with hpos | hempty
    · rw [exec_ret_of_pos hpos] at h; cases h; exact .inl rfl
    · rw [exec_ret_of_empty hempty] at h; cases h; exact .inl rfl
  | seVxNn | sneVxNn | seVxVy | sneVxVy | skpVx | sknpVx => cases h; rw [State.skipIf_eq]; exact .inl rfl
  | _ => cases h; exact .inl rfl

/-- The invariant of a state is that of any state with the same memory, ROM, `fault` and `terminated`. -/
theorem State.Inv.of_same (h : s.Inv) (hmem : t.mem.wf) (hrom : t.romImage = s.romImage)
    (hfault : t.fault = s.fault) (hterm : t.terminated = s.terminated) : t.Inv where
  memory := hmem
  faultOnlyTerminated := by rw [hfault, hterm]; exact h.faultOnlyTerminated
  romFits := by rw [hrom]; exact h.romFits

/-- A fault entry keeps the invariant: `terminated` is set with `fault`. -/
theorem inv_raise (h : s.Inv) (r : Raise) : (s.raise r).Inv where
  memory := h.memory
  faultOnlyTerminated := fun _ => rfl
  romFits := h.romFits

theorem inv_exec {i : Instr} (hs : s.Inv) (h : exec i s = .next t) : t.Inv := by
  rcases exec_cases h with hframe | ⟨r, rfl⟩
  case inr => exact inv_raise hs r
  case inl =>
    have hmem : t.mem.wf := by
      rcases exec_mem_cases h with heq | ⟨base, bs, hstore⟩
      · rw [heq]; exact hs.memory
      · exact Memory.wf_store hs.memory hstore
    exact hs.of_same hmem (hframe _ (rom_notMem_changedParts i)) (hframe _ (fault_notMem_changedParts i))
      (hframe _ (terminated_notMem_changedParts i))

theorem inv_keyWaitPass (hs : s.Inv) : s.keyWaitPass.Inv := by
  cases hlow : lowestKey s.newlyPressed with
  | some j => rw [keyWaitPass_of_some hlow]; exact hs.of_same hs.memory rfl rfl rfl
  | none => rw [keyWaitPass_of_none hlow]; exact hs.of_same hs.memory rfl rfl rfl

theorem inv_execPass (hs : s.Inv) (h : execPass s = .next t) : t.Inv := by
  rcases execPass_cases h with ⟨-, rfl⟩ | ⟨-, rfl⟩ | ⟨-, rfl⟩ | ⟨op, -, rfl⟩ | ⟨i, hi⟩
  · exact hs
  · exact inv_keyWaitPass hs
  · exact inv_raise hs _
  · exact hs.of_same hs.memory rfl rfl rfl
  · exact inv_exec (s := s.advance) (hs.of_same hs.memory rfl rfl rfl) hi

/-- A soft reset rebuilds memory from the canonical one and an image that fits. -/
theorem inv_softReset (hs : s.Inv) : s.softReset.Inv := by
  cases ht : s.terminated with
  | true => rw [softReset_of_terminated ht]; exact hs
  | false =>
    rw [softReset_of_live ht]
    exact hs.of_same (wf_softResetMemory hs.memory hs.romFits) rfl rfl rfl

theorem inv_loadRom (hs : s.Inv) (img : List Byte) : (s.loadRom img).Inv := by
  cases hfits : wfRom img with
  | false => rw [loadRom_of_refused (.inl hfits)]; exact hs
  | true =>
    cases ht : s.terminated with
    | true => rw [loadRom_of_refused (.inr ht)]; exact hs
    | false =>
      rw [loadRom_of_accepted hfits ht]
      exact inv_softReset ⟨hs.memory, hs.faultOnlyTerminated, hfits⟩

theorem inv_tick (hs : s.Inv) : s.tick.Inv := by
  cases ht : s.terminated with
  | true => rw [tick_of_terminated ht]; exact hs
  | false => rw [tick_of_live ht]; exact hs.of_same hs.memory rfl rfl rfl

theorem inv_hostEvent (hs : s.Inv) (e : Event) : (s.hostEvent e).Inv := by
  cases e with
  | tick60 => exact inv_tick hs
  | terminate => exact ⟨hs.memory, fun _ => rfl, hs.romFits⟩
  | softReset => exact inv_softReset hs
  | load img => exact inv_loadRom hs img
  | coldReset => exact ⟨Memory.wf_nil, fun h => absurd rfl h, rfl⟩
  | exec | sampleOutputs => exact hs
  | setPause | setKeys | setQuirkLoadStore | setQuirkShift | setVwrap => exact hs.of_same hs.memory rfl rfl rfl

end Invariant

/-- Settles O51: a pass keeps the invariant because stores keep the canonical memory and faults terminate; a host event
because each reset builds a canonical memory and a load keeps only an image that fits. -/
theorem everyStepKeepsTheInvariant : Obligations.EveryStepKeepsTheInvariant := by
  intro s t hs h
  obtain ⟨rest, hpass | ⟨e, hevent⟩⟩ := step_kinds s
  all_goals have hs' : ({ s with script := rest } : State).Inv := hs.of_same hs.memory rfl rfl rfl
  · exact inv_execPass hs' (hpass.symm.trans h)
  · rw [hevent] at h
    cases h
    exact inv_hostEvent hs' e

/-- Settles O50: reset memory lists no cell, `fault` is none and the ROM image is empty. -/
theorem invariantHoldsAtReset : Obligations.InvariantHoldsAtReset :=
  ⟨wf_resetMemory, fun h => absurd rfl h, rfl⟩

section Registers
variable {s t : State}

/-- The result and the flag of a flag-producing instruction, as registers read afterwards. -/
theorem getV_setResultFlag (s : State) (x r : RegId) (b : Byte) (f : Bool) :
    (s.setResultFlag x b f).getV r = if r = 15 then flagByte f else if r = x then b else s.getV r := by
  rw [State.setResultFlag_eq, State.getV_setV, State.getV_setV]

theorem getV_setFlag (s : State) (r : RegId) (f : Bool) :
    (s.setFlag f).getV r = if r = 15 then flagByte f else s.getV r := by
  rw [State.setFlag_eq, State.getV_setV]

/-- After a register load the registers that the bytes reach hold them, the others keep their own. -/
theorem getV_loadRegs (s : State) (bs : List Byte) (r : RegId) :
    (s.loadRegs bs).getV r = if h : r.val < bs.length then bs[r.val] else s.getV r := by
  have hfill := fillRegs_getElem bs s.v 0 r.val r.isLt
  simpa [State.getV] using hfill

/-- Exactly the bytes read when a load succeeds. -/
theorem load_eq_ok {m : Memory} {base n : Nat} {bs : List Byte} (h : m.load base n = .ok bs) :
    bs = (List.range n).map fun k => m.read (base + k) := by
  rcases m.load_cases base n with ⟨-, hok⟩ | ⟨-, herr⟩
  · rw [hok] at h; cases h; rfl
  · rw [herr] at h; cases h

end Registers

/-- Settles O11: the destination and the flag are the only registers that an instruction's writes touch, and the
instructions without a destination do not have the V registers among their parts. -/
theorem registersChangeOnlyAsNamed : Obligations.RegistersChangeOnlyAsNamed := by
  intro i s t r h hr
  cases i with
  | ldVxNn | addVxNn | ldVxVy | orVxVy | andVxVy | xorVxVy | ldVxDt | rndVxNn =>
    cases h
    simp_all [mayWriteV]
  | addVxVy | subVxVy | subnVxVy | shrVxVy | shlVxVy =>
    cases h
    rw [getV_setResultFlag]
    simp_all [mayWriteV]
  | drwVxVyN x y n =>
    rcases State.orRaise_cases h with ⟨rows, -, rfl⟩ | ⟨r', -, rfl⟩
    · rw [getV_setFlag]
      simp_all [mayWriteV]
    · rfl
  | ldVxMem x =>
    rcases State.orRaise_cases h with ⟨bs, hload, rfl⟩ | ⟨r', -, rfl⟩
    · have hlen : bs.length = x.val + 1 := by rw [load_eq_ok hload]; simp
      have hlt : x.val < r.val := by simpa [mayWriteV] using hr
      have hx : ¬ r.val < bs.length := by omega
      rw [State.getV_setI, getV_loadRegs, dif_neg hx]
    · rfl
  | _ =>
    have hv : Part.v.same s t := exec_same h (by simp [changedParts])
    exact congrArg (fun v : Vector Byte 16 => v[r.val]) hv

end Sys2Proof.Machine
end

section
/-! Proofs about what no pass reads: ST (10_state.md R25), and the stack entries at and above `sp` (10_state.md R24).
Both follow from one simulation: a change of ST and of the stack commutes with every instruction that names neither. -/

namespace Sys2Proof.Machine

/-- ST and the stack's entries changed, everything else kept: what most instructions neither read nor write. -/
def State.mapUnread (s : State) (f : Byte → Byte) (g : Vector Word 16 → Vector Word 16) : State :=
  { s with st := f s.st, stack := g s.stack }

/-- The instructions that read or write ST or the stack. -/
def namesUnread : Instr → Bool
  | .ret | .callNnn _ | .ldStVx _ => true
  | _ => false

section Simulation
variable {s t : State} (f : Byte → Byte) (g : Vector Word 16 → Vector Word 16)

theorem setSt_eq_mapUnread (b : Byte) : s.setSt b = s.mapUnread (fun _ => b) id := rfl

theorem keyWaitPass_mapUnread : (s.mapUnread f g).keyWaitPass = s.keyWaitPass.mapUnread f g := by
  cases hlow : lowestKey s.newlyPressed with
  | some j => rw [keyWaitPass_of_some hlow, keyWaitPass_of_some (s := s.mapUnread f g) hlow]; rfl
  | none => rw [keyWaitPass_of_none hlow, keyWaitPass_of_none (s := s.mapUnread f g) hlow]; rfl

/-- An instruction that may raise commutes with the change when its effect does: a raise depends on `e` alone. -/
theorem orRaise_mapUnread {α : Type} {e : Except Raise α} {k k' : α → State}
    (hk : ∀ a, k' a = (k a).mapUnread f g) (h : s.orRaise e k = .next t) :
    (s.mapUnread f g).orRaise e k' = .next (t.mapUnread f g) := by
  rcases State.orRaise_cases h with ⟨a, rfl, rfl⟩ | ⟨r, rfl, rfl⟩
  · rw [State.orRaise_ok, hk]
  · rfl

/-- The simulation, for one instruction. -/
theorem exec_mapUnread {i : Instr} (hi : namesUnread i = false) (h : exec i s = .next t) :
    exec i (s.mapUnread f g) = .next (t.mapUnread f g) := by
  cases i with
  | ret | callNnn | ldStVx => simp [namesUnread] at hi
  | drwVxVyN | ldBVx | ldMemVx | ldVxMem => exact orRaise_mapUnread f g (fun _ => rfl) h
  | seVxNn | sneVxNn | seVxVy | sneVxVy | skpVx | sknpVx =>
    cases h
    rw [State.skipIf_eq]
    exact congrArg _ (State.skipIf_eq _ _)
  | _ => cases h; rfl

/-- The simulation, for one pass: it commutes with the change, or it runs one instruction from both states. -/
theorem execPass_mapUnread (s : State) :
    (∃ t, execPass s = .next t ∧ execPass (s.mapUnread f g) = .next (t.mapUnread f g) ∧
      Part.callStack.same s t) ∨
    ∃ i, execPass s = exec i s.advance ∧ execPass (s.mapUnread f g) = exec i (s.advance.mapUnread f g) := by
  rcases pass_kinds s with hstop | ⟨ht, hp, hk⟩ | ⟨hrun, hpc⟩ | ⟨hrun, hpc⟩
  · exact .inl ⟨s, execPass_of_stopped hstop, execPass_of_stopped hstop, Part.same_refl _ s⟩
  · refine .inl ⟨s.keyWaitPass, execPass_of_awaiting ht hp hk, ?_, onlyChanges_keyWaitPass s _ (by simp)⟩
    rw [execPass_of_awaiting (s := s.mapUnread f g) ht hp hk, keyWaitPass_mapUnread]
  · exact .inl ⟨_, execPass_of_pc_gt hrun hpc, execPass_of_pc_gt (s := s.mapUnread f g) hrun hpc,
      onlyChanges_raise s _ _ (by simp)⟩
  · have hs := execPass_of_pc_le hrun hpc
    have hs' : execPass (s.mapUnread f g) = runWord s.wordAtPc s.pc (s.advance.mapUnread f g) :=
      execPass_of_pc_le (s := s.mapUnread f g) hrun hpc
    cases hd : decodeWord s.wordAtPc with
    | some i => exact .inr ⟨i, hs.trans (runWord_of_some hd), hs'.trans (runWord_of_some hd)⟩
    | none =>
      exact .inl ⟨_, hs.trans (runWord_of_none hd), hs'.trans (runWord_of_none hd), rfl, rfl⟩

end Simulation

section SoundTimer
variable {s t : State} (b : Byte)

theorem exec_ret_setSt (h : exec .ret s = .next t) : exec .ret (s.setSt b) = .next (t.setSt b) := by
  rcases sp_pos_or_empty s with hpos | hempty
  · rw [exec_ret_of_pos hpos] at h
    cases h
    exact exec_ret_of_pos (s := s.setSt b) hpos
  · rw [exec_ret_of_empty hempty] at h
    cases h
    exact exec_ret_of_empty (s := s.setSt b) hempty

theorem exec_callNnn_setSt {nnn : BitVec 12} (h : exec (.callNnn nnn) s = .next t) :
    exec (.callNnn nnn) (s.setSt b) = .next (t.setSt b) := by
  rcases sp_lt_or_full s with hlt | hfull
  · rw [exec_callNnn_of_lt nnn hlt] at h
    cases h
    exact exec_callNnn_of_lt nnn (s := s.setSt b) hlt
  · rw [exec_callNnn_of_full nnn hfull] at h
    cases h
    exact exec_callNnn_of_full nnn (s := s.setSt b) hfull

/-- An instruction from a state with another ST: the answer is the same but for ST. -/
theorem exec_setSt {i : Instr} (h : exec i s = .next t) : ∃ c, exec i (s.setSt b) = .next (t.setSt c) := by
  by_cases hi : namesUnread i = false
  · refine ⟨b, ?_⟩
    rw [setSt_eq_mapUnread, setSt_eq_mapUnread]
    exact exec_mapUnread (fun _ => b) id hi h
  · cases i with
    | ret => exact ⟨b, exec_ret_setSt b h⟩
    | callNnn => exact ⟨b, exec_callNnn_setSt b h⟩
    | ldStVx x => cases h; exact ⟨s.getV x, rfl⟩
    | _ => simp [namesUnread] at hi

end SoundTimer

/-- Settles O59: the simulation with another ST, and the three instructions outside it one by one. -/
theorem soundTimerIsNeverRead : Obligations.SoundTimerIsNeverRead := by
  intro s t b h
  suffices hsim : ∃ c, execPass (s.setSt b) = .next (t.setSt c) by
    obtain ⟨c, hc⟩ := hsim
    exact ⟨t.setSt c, hc, onlyChanges_setSt t c⟩
  rcases execPass_mapUnread (fun _ => b) id s with ⟨t', hs, hs', -⟩ | ⟨i, hs, hs'⟩
  · rw [hs] at h
    cases h
    exact ⟨b, hs'⟩
  · obtain ⟨c, hc⟩ := exec_setSt b (hs.symm.trans h)
    exact ⟨c, hs'.trans hc⟩

section StackAboveSp
variable {s t : State}

/-- The stack replaced by another one. -/
def State.withStack (s : State) (k : Vector Word 16) : State := { s with stack := k }

/-- The first `n` entries of two stacks are the same. -/
def SameBelow (n : Nat) (k l : Vector Word 16) : Prop := ∀ j, (h : j < 16) → j < n → l[j] = k[j]

theorem withStack_eq_mapUnread (k : Vector Word 16) : s.withStack k = s.mapUnread id (fun _ => k) := rfl

theorem onlyChanges_withStack (s : State) (k : Vector Word 16) : OnlyChanges [.callStack] s (s.withStack k) := by
  intro p hp; cases p <;> simp_all [Part.same, State.withStack]

theorem agreeBelowSp_withStack {k : Vector Word 16} (h : SameBelow s.sp.val s.stack k) :
    AgreeBelowSp s (s.withStack k) :=
  ⟨rfl, h, rfl, onlyChanges_withStack s k⟩

/-- States that agree below `sp` are the same but for the stack. -/
theorem eq_withStack_of_agreeBelowSp {s' : State} (h : AgreeBelowSp s s') :
    s' = s.withStack s'.stack ∧ SameBelow s.sp.val s.stack s'.stack := by
  obtain ⟨hsp, hbelow, hmem, hframe⟩ := h
  refine ⟨?_, hbelow⟩
  obtain ⟨hkeys, hpause, hload, hshift, hwrap⟩ := hframe .inputs (by decide)
  obtain ⟨hawait, hdest, hprev⟩ := hframe .keyWait (by decide)
  cases s
  cases s'
  simp only [State.withStack, State.mk.injEq]
  exact ⟨hframe .v (by decide), hframe .i (by decide), hframe .pc (by decide), trivial, hsp,
    hframe .dt (by decide), hframe .st (by decide), hmem, hframe .framebuffer (by decide), hawait, hdest, hprev,
    hframe .terminated (by decide), hframe .fault (by decide), hkeys, hpause, hload, hshift, hwrap,
    hframe .rom (by decide), hframe .draws (by decide), hframe .logOut (by decide), hframe .script (by decide)⟩

/-- Pushing the same word on stacks that agree below the depth makes them agree one entry further. -/
theorem sameBelow_set {n : Nat} {k l : Vector Word 16} (h : SameBelow n k l) (hn : n < 16) (w : Word) :
    SameBelow (n + 1) (k.set n w) (l.set n w) := by
  intro j hj hjn
  rw [Vector.getElem_set, Vector.getElem_set]
  split
  case isTrue => rfl
  case isFalse hne => exact h j hj (by omega)

/-- An instruction from a state with another stack that agrees below `sp`: the answers agree below theirs. -/
theorem exec_withStack {i : Instr} {k : Vector Word 16} (hk : SameBelow s.sp.val s.stack k)
    (h : exec i s = .next t) : ∃ t', exec i (s.withStack k) = .next t' ∧ AgreeBelowSp t t' := by
  cases i with
  | ret =>
    rcases sp_pos_or_empty s with hpos | hempty
    · rw [exec_ret_of_pos hpos] at h
      cases h
      have htop : (s.withStack k).stack[(s.withStack k).sp.val - 1] = s.stack[s.sp.val - 1] :=
        hk (s.sp.val - 1) (by omega) (by omega)
      have hbelow : SameBelow (s.sp.val - 1) s.stack k := fun j hj hjn => hk j hj (by omega)
      have hret := exec_ret_of_pos (s := s.withStack k) hpos
      rw [htop] at hret
      exact ⟨_, hret, agreeBelowSp_withStack hbelow⟩
    · rw [exec_ret_of_empty hempty] at h
      cases h
      exact ⟨_, exec_ret_of_empty (s := s.withStack k) hempty, agreeBelowSp_withStack hk⟩
  | callNnn nnn =>
    rcases sp_lt_or_full s with hlt | hfull
    · rw [exec_callNnn_of_lt nnn hlt] at h
      cases h
      exact ⟨_, exec_callNnn_of_lt nnn (s := s.withStack k) hlt, agreeBelowSp_withStack (sameBelow_set hk hlt s.pc)⟩
    · rw [exec_callNnn_of_full nnn hfull] at h
      cases h
      exact ⟨_, exec_callNnn_of_full nnn (s := s.withStack k) hfull, agreeBelowSp_withStack hk⟩
  | ldStVx x =>
    cases h
    exact ⟨_, rfl, agreeBelowSp_withStack (s := s.setSt (s.getV x)) hk⟩
  | _ =>
    have ⟨hstack, hsp⟩ : Part.callStack.same s t := exec_same h (by simp [changedParts])
    refine ⟨t.withStack k, ?_, agreeBelowSp_withStack ?_⟩
    · rw [withStack_eq_mapUnread, withStack_eq_mapUnread]
      exact exec_mapUnread id (fun _ => k) rfl h
    · rw [hstack, hsp]
      exact hk

end StackAboveSp

/-- Settles O60: the simulation with another stack, and `CALL` and `RET`, which see entries below `sp` alone. -/
theorem stackAboveSpIsUnobservable : Obligations.StackAboveSpIsUnobservable := by
  intro s s' t hagree h
  obtain ⟨heq, hk⟩ := eq_withStack_of_agreeBelowSp hagree
  generalize s'.stack = k at heq hk
  subst heq
  rcases execPass_mapUnread id (fun _ => k) s with ⟨u, hs, hs', hstack, hsp⟩ | ⟨i, hs, hs'⟩
  · rw [hs] at h
    cases h
    refine ⟨t.withStack k, hs', agreeBelowSp_withStack ?_⟩
    rw [hstack, hsp]
    exact hk
  · obtain ⟨t', ht', hagree'⟩ := exec_withStack (s := s.advance) hk (hs.symm.trans h)
    exact ⟨t', hs'.trans ht', hagree'⟩

end Sys2Proof.Machine
end

section
/-! Proofs about arithmetic, logic and shifts (40_alu.md), and about the draw of a random byte
(45_timers_keys_random.md R180). -/

namespace Sys2Proof.Machine

section ByteArithmetic
variable (a b : Byte)

theorem ofNat_toNat_add : BitVec.ofNat 8 (a.toNat + b.toNat) = a + b := by
  rw [BitVec.ofNat_add, BitVec.ofNat_toNat, BitVec.ofNat_toNat, BitVec.setWidth_eq, BitVec.setWidth_eq]

/-- The difference modulo 256 as a number that is never negative. -/
theorem ofNat_toNat_sub : BitVec.ofNat 8 (256 + a.toNat - b.toNat) = a - b := by
  apply BitVec.eq_of_toNat_eq
  have hb := b.isLt
  rw [BitVec.toNat_ofNat, BitVec.toNat_sub]
  congr 1
  omega

theorem ofNat_toNat_half : BitVec.ofNat 8 (a.toNat / 2) = a >>> 1 := by
  apply BitVec.eq_of_toNat_eq
  have ha := a.isLt
  rw [BitVec.toNat_ofNat, BitVec.toNat_ushiftRight, Nat.shiftRight_eq_div_pow]
  omega

theorem ofNat_toNat_double : BitVec.ofNat 8 (2 * a.toNat) = a <<< 1 := by
  apply BitVec.eq_of_toNat_eq
  rw [BitVec.toNat_ofNat, BitVec.toNat_shiftLeft, Nat.shiftLeft_eq, Nat.mul_comm, Nat.pow_one]

theorem carryOut_iff : carryOut a b = true ↔ a.toNat + b.toNat > 255 := decide_eq_true_iff

theorem noBorrow_iff : noBorrow a b = true ↔ a.toNat ≥ b.toNat := decide_eq_true_iff

theorem shiftedOutRight_iff : shiftedOutRight a = true ↔ a.toNat % 2 = 1 := by
  rw [shiftedOutRight, BitVec.getLsbD, Nat.testBit_zero, decide_eq_true_iff]

/-- Bit 7 of a byte is set from 128 on. -/
theorem shiftedOutLeft_iff : shiftedOutLeft a = true ↔ 128 ≤ a.toNat := by
  have ha := a.isLt
  rw [shiftedOutLeft, BitVec.getLsbD, Nat.testBit_eq_decide_div_mod_eq, decide_eq_true_iff]
  omega

end ByteArithmetic

section FlagResults
variable (s : State) (x y : RegId)

theorem exec_addVxNn (nn : Byte) : exec (.addVxNn x nn) s = .next (s.setV x (s.getV x + nn)) := rfl

theorem exec_orVxVy : exec (.orVxVy x y) s = .next (s.setV x (s.getV x ||| s.getV y)) := rfl

theorem exec_andVxVy : exec (.andVxVy x y) s = .next (s.setV x (s.getV x &&& s.getV y)) := rfl

theorem exec_xorVxVy : exec (.xorVxVy x y) s = .next (s.setV x (s.getV x ^^^ s.getV y)) := rfl

theorem exec_addVxVy : exec (.addVxVy x y) s =
    .next (s.setResultFlag x (s.getV x + s.getV y) (carryOut (s.getV x) (s.getV y))) := rfl

theorem exec_subVxVy : exec (.subVxVy x y) s =
    .next (s.setResultFlag x (s.getV x - s.getV y) (noBorrow (s.getV x) (s.getV y))) := rfl

theorem exec_subnVxVy : exec (.subnVxVy x y) s =
    .next (s.setResultFlag x (s.getV y - s.getV x) (noBorrow (s.getV y) (s.getV x))) := rfl

theorem exec_shrVxVy : exec (.shrVxVy x y) s =
    .next (s.setResultFlag x (s.shiftSource x y >>> 1) (shiftedOutRight (s.shiftSource x y))) := rfl

theorem exec_shlVxVy : exec (.shlVxVy x y) s =
    .next (s.setResultFlag x (s.shiftSource x y <<< 1) (shiftedOutLeft (s.shiftSource x y))) := rfl

theorem exec_rndVxNn (nn : Byte) : exec (.rndVxNn x nn) s = .next (s.setV x (s.rnd &&& nn)).countDraw := rfl

theorem shiftSource_eq : s.shiftSource x y = if s.quirkShift then s.getV x else s.getV y := by
  cases h : s.quirkShift <;> simp [State.shiftSource, h]

/-- A result and then a flag meet `WritesVAndFlag` for whatever proposition the flag decides: the shared end of the
flag-producing instructions. -/
theorem writesVAndFlag_next_setResultFlag {b : Byte} {f : Bool} {flag : Prop} (hf : f = true ↔ flag) :
    WritesVAndFlag (.next (s.setResultFlag x b f)) s x b flag := by
  refine ⟨_, rfl, ?set, ?clear, ?result, ?others, onlyChanges_setResultFlag s x b f⟩
  case set =>
    intro h
    rw [getV_setResultFlag, if_pos rfl, hf.mpr h]; rfl
  case clear =>
    intro h
    rw [getV_setResultFlag, if_pos rfl, Bool.eq_false_iff.mpr (mt hf.mp h)]; rfl
  case result =>
    intro hx
    rw [getV_setResultFlag, if_neg hx, if_pos rfl]
  case others =>
    intro r hr h15
    rw [getV_setResultFlag, if_neg h15, if_neg hr]

end FlagResults

/-- Settles O7: each is one `setV`, and the sum of bytes is the sum modulo 256. -/
theorem addImmediateAndBitwiseWriteVxWithoutFlag : Obligations.AddImmediateAndBitwiseWriteVxWithoutFlag := by
  intro x y nn s
  refine ⟨?add, ?or, ?and, ?xor⟩
  case add => rw [exec_addVxNn, ofNat_toNat_add]; exact writesV_next_setV s x _
  case or => rw [exec_orVxVy]; exact writesV_next_setV s x _
  case and => rw [exec_andVxVy]; exact writesV_next_setV s x _
  case xor => rw [exec_xorVxVy]; exact writesV_next_setV s x _

/-- Settles O8: the flag decides that the exact sum exceeds 255. -/
theorem addWritesSumAndCarry : Obligations.AddWritesSumAndCarry := by
  intro x y s
  rw [exec_addVxVy, ofNat_toNat_add]
  exact writesVAndFlag_next_setResultFlag s x (carryOut_iff _ _)

/-- Settles O9: the flag decides that the subtrahend is at most the minuend. -/
theorem subtractWritesDifferenceAndNoBorrow : Obligations.SubtractWritesDifferenceAndNoBorrow := by
  intro x y s
  constructor
  case left =>
    rw [exec_subVxVy, ofNat_toNat_sub]
    exact writesVAndFlag_next_setResultFlag s x (noBorrow_iff _ _)
  case right =>
    rw [exec_subnVxVy, ofNat_toNat_sub]
    exact writesVAndFlag_next_setResultFlag s x (noBorrow_iff _ _)

/-- Settles O10: the source is the quirk's, and the bit shifted out is its parity or its top half. -/
theorem shiftsUseTheQuirkSourceAndShiftOutIntoVF : Obligations.ShiftsUseTheQuirkSourceAndShiftOutIntoVF := by
  intro x y s src hsrc
  rw [← shiftSource_eq] at hsrc
  constructor
  case left =>
    rw [exec_shrVxVy, ← hsrc, ofNat_toNat_half]
    exact writesVAndFlag_next_setResultFlag s x (shiftedOutRight_iff src)
  case right =>
    rw [exec_shlVxVy, ← hsrc, ofNat_toNat_double]
    exact writesVAndFlag_next_setResultFlag s x (shiftedOutLeft_iff src)

/-- Settles O30: one `setV` of the masked draw, then the counter moves on. -/
theorem randomIsTheMaskedDraw : Obligations.RandomIsTheMaskedDraw := by
  intro x nn s
  have hval : (s.setV x (s.rnd &&& nn)).countDraw.getV x = (Config.rndDraw s.rndCount &&& nn) := by
    rw [State.getV_countDraw, State.getV_setV, if_pos rfl]; rfl
  refine ⟨_, exec_rndVxNn s x nn, hval, ?clear, ?others, rfl,
    (onlyChanges_setV s x _).trans_pair (onlyChanges_countDraw _)⟩
  case clear =>
    intro k hk
    rw [hval, BitVec.getLsbD_and, hk, Bool.and_false]
  case others =>
    intro r hr
    rw [State.getV_countDraw, State.getV_setV, if_neg hr]

end Sys2Proof.Machine
end

section
/-! Proofs about the key skips (42_skips.md R154, R155), the index register (44_index_memory.md R171, R172) and the key
wait (45_timers_keys_random.md R184, R185). -/

namespace Sys2Proof.Machine

section Arms
variable (s : State) (x : RegId)

theorem exec_skpVx : exec (.skpVx x) s = .next (s.skipIf (s.keyDown x)) := rfl

theorem exec_sknpVx : exec (.sknpVx x) s = .next (s.skipIf (!s.keyDown x)) := rfl

theorem exec_addIVx : exec (.addIVx x) s = .next (s.setI (s.i + wide (s.getV x))) := rfl

theorem exec_ldFVx : exec (.ldFVx x) s = .next (s.setI (glyphAddr (lowNibble (s.getV x)))) := rfl

theorem exec_ldVxK : exec (.ldVxK x) s = .next (s.armKeyWait x) := rfl

end Arms

/-- Settles O17: each key skip is one `skipIf` of the level of the low nibble's key, or of its negation. -/
theorem skipsTestTheKeyLevel : Obligations.SkipsTestTheKeyLevel := by
  intro x s
  constructor
  case left => rw [exec_skpVx]; exact skipsWhen_next_skipIf s Iff.rfl
  case right => rw [exec_sknpVx]; exact skipsWhen_next_skipIf s (Bool.not_eq_true' _).to_iff

/-- Settles O22: a 16-bit sum is the sum of the numbers modulo 65536. -/
theorem indexAddWrapsAtSixteenBits : Obligations.IndexAddWrapsAtSixteenBits := by
  intro x s
  refine ⟨_, exec_addIVx s x, ?sum, onlyChanges_setI s _⟩
  case sum =>
    have hwide : (wide (s.getV x)).toNat = (s.getV x).toNat := BitVec.toNat_setWidth_of_le (by decide)
    rw [State.setI_i, BitVec.toNat_add, hwide]

theorem fontBase_le : fontBase ≤ 0x1B0 := Nat.le_of_lt_succ Config.fontBase.isLt

/-- A glyph address stays far below 65536, so no wrap occurs. -/
theorem glyphAddr_toNat {d : Nat} (hd : d < 16) : (glyphAddr d).toNat = fontBase + 5 * d := by
  have hbase := fontBase_le
  rw [glyphAddr, BitVec.toNat_ofNat, Nat.mod_eq_of_lt (by omega)]

/-- Settles O23: the font base and 16 glyphs fit in 16 bits. -/
theorem fontLookupGivesTheGlyphAddress : Obligations.FontLookupGivesTheGlyphAddress := by
  refine ⟨fontBase_le, fun x s => ⟨_, exec_ldFVx s x, ?address, onlyChanges_setI s _⟩⟩
  case address => exact glyphAddr_toNat (Nat.mod_lt _ (by decide))

/-- Settles O31: `LD Vx, K` is one arming of the wait. -/
theorem keyWaitInstructionArmsTheWait : Obligations.KeyWaitInstructionArmsTheWait := by
  intro x s
  refine ⟨s.armKeyWait x, exec_ldVxK s x, rfl, rfl, rfl, ?state, onlyChanges_armKeyWait s x⟩
  case state =>
    intro ht hp
    simp [State.runState, ht, hp]

/-- A newly pressed key is a set bit of the word that the pass searches. -/
theorem newlyPressed_getLsbD (s : State) (j : Fin 16) : s.newlyPressed.getLsbD j = true ↔ s.newlyDown j := by
  simp [State.newlyPressed, State.newlyDown]

/-- The search finds the lowest newly pressed key. -/
theorem lowestKey_of_lowest_newlyDown {s : State} {j : Fin 16} (hj : s.newlyDown j)
    (hlow : ∀ k, k < j → ¬ s.newlyDown k) : lowestKey s.newlyPressed = some j.val := by
  refine lowestKey_eq_some.mpr ⟨j.isLt, (newlyPressed_getLsbD s j).mpr hj, fun k hk => ?_⟩
  rw [Bool.eq_false_iff]
  exact fun hbit => hlow ⟨k, by omega⟩ hk ((newlyPressed_getLsbD s ⟨k, by omega⟩).mp hbit)

theorem lowestKey_of_no_newlyDown {s : State} (h : ∀ j, ¬ s.newlyDown j) : lowestKey s.newlyPressed = none := by
  rw [lowestKey_eq_none]
  apply BitVec.eq_of_getLsbD_eq
  intro k hk
  have hbit : s.newlyPressed.getLsbD k = false :=
    Bool.eq_false_iff.mpr fun hset => h ⟨k, hk⟩ ((newlyPressed_getLsbD s ⟨k, hk⟩).mp hset)
  rw [hbit]
  exact BitVec.getLsbD_zero.symm

/-- Settles O32: the pass of a waiting core is the key-wait pass, which the search for the lowest key decides. -/
theorem keyWaitPassCompletesOrKeepsWaiting : Obligations.KeyWaitPassCompletesOrKeepsWaiting := by
  intro s ht hp hk
  rw [execPass_of_awaiting ht hp hk]
  constructor
  case left =>
    intro j hj hlow
    rw [keyWaitPass_of_some (lowestKey_of_lowest_newlyDown hj hlow)]
    refine ⟨_, rfl, ?value, ?others, rfl, rfl, rfl, onlyChanges_endKeyWait s _ _⟩
    case value =>
      have hread : (s.setV s.keyDest (BitVec.ofNat 8 j)).getV s.keyDest = BitVec.ofNat 8 j := by simp
      refine (congrArg BitVec.toNat hread).trans ?_
      rw [BitVec.toNat_ofNat]
      omega
    case others =>
      intro r hr
      have hread : (s.setV s.keyDest (BitVec.ofNat 8 j)).getV r = s.getV r := by simp [hr]
      exact hread
  case right =>
    intro hnone
    rw [keyWaitPass_of_none (lowestKey_of_no_newlyDown hnone)]
    exact ⟨_, rfl, hk, rfl, rfl, onlyChanges_keyPrev s _⟩

end Sys2Proof.Machine
end

section
/-! Proofs about `CALL` and `RET` (41_control_flow.md R141, R142). -/

namespace Sys2Proof.Machine

/-- A change of the pc and of the call stack alone, whatever their new values. -/
theorem onlyChanges_pc_callStack (s : State) (w : Word) (k : Vector Word 16) (n : Fin 17) :
    OnlyChanges [.pc, .callStack] s { s with pc := w, stack := k, sp := n } := by
  intro p hp; cases p <;> simp_all [Part.same]

/-- Settles O13: below depth 16 the push sets one entry, at depth 16 the overflow is entered. -/
theorem callPushesAndJumpsOrOverflows : Obligations.CallPushesAndJumpsOrOverflows := by
  intro nnn s
  constructor
  case left =>
    intro h
    refine ⟨_, exec_callNnn_of_lt nnn h, addrOf_eq_ofNat nnn, rfl, Vector.getElem_set_self h, ?others,
      onlyChanges_pc_callStack s _ _ _⟩
    case others =>
      intro k hk hne
      exact Vector.getElem_set_ne h hk hne.symm
  case right =>
    intro h
    rw [exec_callNnn_of_full nnn h]
    exact entersFault_raise s _

/-- Settles O14: above depth 0 the pop reads the top entry and leaves the stack, at depth 0 the underflow is entered. -/
theorem returnPopsOrUnderflows : Obligations.ReturnPopsOrUnderflows := by
  intro s
  constructor
  case left =>
    intro h
    exact ⟨_, exec_ret_of_pos h, rfl, Nat.sub_add_cancel h, rfl, onlyChanges_pc_callStack s _ s.stack _⟩
  case right =>
    intro h
    rw [exec_ret_of_empty h]
    exact entersFault_raise s _

/-- Settles O15: the `RET` reads the entry that the `CALL` wrote, at the depth the `CALL` left. -/
theorem callThenReturnRestores : Obligations.CallThenReturnRestores := by
  intro nnn s w h
  have htop : (s.stack.set s.sp.val s.pc)[s.sp.val] = s.pc := Vector.getElem_set_self h
  refine ⟨_, _, exec_callNnn_of_lt nnn h, exec_ret_of_pos (Nat.succ_pos _), htop, rfl, ?others, ?frame⟩
  case others =>
    intro k hk hne
    exact Vector.getElem_set_ne h hk hne.symm
  case frame =>
    intro p hp
    cases p with
    | callStack => simp at hp
    | pc => exact htop
    | _ => simp [Part.same]

end Sys2Proof.Machine
end

section
/-! Proofs about the instructions that reach memory through I (44_index_memory.md R173 to R176; 20_memory.md R63,
R64). -/

namespace Sys2Proof.Machine

section Bounds
variable {m : Memory} {base n : Nat} {bs : List Byte}

theorem load_of_inRange (h : InRange base n) :
    m.load base n = .ok ((List.range n).map fun k => m.read (base + k)) := by
  rw [Memory.load, if_pos h]

theorem load_of_not_inRange (h : ¬ InRange base n) : m.load base n = .error (rangeFault base) := by
  rw [Memory.load, if_neg h]

theorem store_of_inRange (h : InRange base bs.length) : m.store base bs = .ok (m.writeAll base bs) := by
  rw [Memory.store, if_pos h]

theorem store_of_not_inRange (h : ¬ InRange base bs.length) : m.store base bs = .error (rangeFault base) := by
  rw [Memory.store, if_neg h]

/-- What any address reads as after a run of bytes is written. -/
theorem read_writeAll (m : Memory) (base : Nat) (bs : List Byte) (a : Nat) : (m.writeAll base bs).read a =
    if h : base ≤ a ∧ a < base + bs.length then bs[a - base]'(by omega) else m.read a := by
  split
  case isTrue h =>
    have hread := Memory.read_writeAll_at m bs base (a - base) (by omega)
    rwa [Nat.add_sub_cancel' h.1] at hread
  case isFalse h => exact Memory.read_writeAll_other m bs base a (by omega)

end Bounds

section Stores
variable {s : State} (x : RegId)

theorem bcdDigits_length (b : Byte) : (bcdDigits b).length = 3 := rfl

theorem exec_ldBVx_of_le (h : s.i.toNat + 2 ≤ 4095) : exec (.ldBVx x) s =
    .next (s.setMem (s.mem.writeAll s.i.toNat (bcdDigits (s.getV x)))) := by
  rw [exec_ldBVx, store_of_inRange (.inr (by rw [bcdDigits_length]; omega)), State.orRaise_ok]

theorem exec_ldBVx_of_gt (h : s.i.toNat + 2 > 4095) :
    exec (.ldBVx x) s = .next (s.raise (rangeFault s.i.toNat)) := by
  rw [exec_ldBVx, store_of_not_inRange (by rw [bcdDigits_length]; omega), State.orRaise_error]

theorem exec_ldMemVx_of_le (h : s.i.toNat + x.val ≤ 4095) : exec (.ldMemVx x) s =
    .next ((s.setMem (s.mem.writeAll s.i.toNat (s.dumpBytes x))).setI (s.indexAfter x)) := by
  rw [exec_ldMemVx, store_of_inRange (.inr (by rw [State.dumpBytes_length]; omega)), State.orRaise_ok]

theorem exec_ldMemVx_of_gt (h : s.i.toNat + x.val > 4095) :
    exec (.ldMemVx x) s = .next (s.raise (rangeFault s.i.toNat)) := by
  rw [exec_ldMemVx, store_of_not_inRange (by rw [State.dumpBytes_length]; omega), State.orRaise_error]

/-- V0 to VX, as the register load finds them from I upward. -/
def State.bytesAtI (s : State) (x : RegId) : List Byte :=
  (List.range (x.val + 1)).map fun k => s.mem.read (s.i.toNat + k)

theorem exec_ldVxMem_of_le (h : s.i.toNat + x.val ≤ 4095) : exec (.ldVxMem x) s =
    .next ((s.loadRegs (s.bytesAtI x)).setI (s.indexAfter x)) := by
  rw [exec_ldVxMem, load_of_inRange (.inr (by omega)), State.orRaise_ok]; rfl

theorem exec_ldVxMem_of_gt (h : s.i.toNat + x.val > 4095) :
    exec (.ldVxMem x) s = .next (s.raise (rangeFault s.i.toNat)) := by
  rw [exec_ldVxMem, load_of_not_inRange (by omega), State.orRaise_error]

theorem indexAfter_of_quirk (h : s.quirkLoadStore = true) : s.indexAfter x = s.i := by
  rw [State.indexAfter, h, cond_true]

theorem indexAfter_of_not_quirk (h : s.quirkLoadStore = false) :
    s.indexAfter x = BitVec.ofNat 16 (s.i.toNat + x.val + 1) := by
  have hi : BitVec.ofNat 16 s.i.toNat = s.i := (BitVec.ofNat_toNat 16 s.i).trans (BitVec.setWidth_eq s.i)
  rw [State.indexAfter, h, cond_false, Nat.add_assoc, BitVec.ofNat_add s.i.toNat, hi]

/-- Register `r` of a load that reaches it is the byte at I + r, every other register its old value. -/
theorem getV_loadRegs_bytesAtI (t : State) (r : RegId) : (t.loadRegs (s.bytesAtI x)).getV r =
    if r ≤ x then s.mem.read (s.i.toNat + r.val) else t.getV r := by
  have hlen : (s.bytesAtI x).length = x.val + 1 := by simp [State.bytesAtI]
  rw [getV_loadRegs]
  by_cases hr : r ≤ x
  · rw [dif_pos (by rw [hlen]; exact Nat.lt_succ_of_le hr), if_pos hr]
    simp [State.bytesAtI]
  · rw [dif_neg (by rw [hlen]; exact fun hlt => hr (Nat.le_of_lt_succ hlt)), if_neg hr]

/-- Byte `a` after a register dump. -/
theorem read_dump (s : State) (x : RegId) (a : Nat) : (s.mem.writeAll s.i.toNat (s.dumpBytes x)).read a =
    if s.i.toNat ≤ a ∧ a ≤ s.i.toNat + x.val then s.getV (Fin.ofNat 16 (a - s.i.toNat)) else s.mem.read a := by
  have hlen := s.dumpBytes_length x
  rw [read_writeAll]
  by_cases ha : s.i.toNat ≤ a ∧ a ≤ s.i.toNat + x.val
  · have hmod : (a - s.i.toNat) % 16 = a - s.i.toNat := Nat.mod_eq_of_lt (by omega)
    rw [dif_pos (by omega), if_pos ha, State.dumpBytes_getElem]
    exact congrArg s.getV (Fin.ext hmod.symm)
  · rw [dif_neg (by omega), if_neg ha]

theorem read_dump_toNat (s : State) (x : RegId) (a : Nat) :
    ((s.mem.writeAll s.i.toNat (s.dumpBytes x)).read a).toNat = s.byteAfterDump x a := by
  rw [read_dump, State.byteAfterDump, apply_ite BitVec.toNat]

/-- Byte `a` after the digits are stored, as a number. -/
theorem read_bcd (s : State) (x : RegId) (a : Nat) :
    ((s.mem.writeAll s.i.toNat (bcdDigits (s.getV x))).read a).toNat = s.byteAfterBcd x a := by
  simp only [bcdDigits, Memory.writeAll, Memory.read_write, State.byteAfterBcd]
  by_cases h0 : a = s.i.toNat
  · rw [if_neg (by omega), if_neg (by omega), if_pos h0, if_pos h0]
    exact BitVec.toNat_udiv
  by_cases h1 : a = s.i.toNat + 1
  · rw [if_neg (by omega), if_pos h1, if_neg h0, if_pos h1, BitVec.toNat_umod, BitVec.toNat_udiv]
    rfl
  by_cases h2 : a = s.i.toNat + 2
  · rw [if_pos h2, if_neg h0, if_neg h1, if_pos h2]
    exact BitVec.toNat_umod
  · rw [if_neg h2, if_neg h1, if_neg h0, if_neg h0, if_neg h1, if_neg h2]

end Stores

/-- Settles O24: the three digits are the written run; out of range the store fails before any write. -/
theorem bcdStoresThreeDigitsOrFaults : Obligations.BcdStoresThreeDigitsOrFaults := by
  intro x s
  constructor
  case left =>
    intro h
    refine ⟨_, exec_ldBVx_of_le x h, ?hundreds, ?tens, ?ones, ?others, onlyChanges_setMem s _⟩
    case hundreds => rw [State.setMem_mem, read_bcd]; simp [State.byteAfterBcd]
    case tens => rw [State.setMem_mem, read_bcd]; simp [State.byteAfterBcd]
    case ones => rw [State.setMem_mem, read_bcd]; simp [State.byteAfterBcd]
    case others =>
      intro a ha
      rw [State.setMem_mem, Memory.read_writeAll_other _ _ _ _ (by rw [bcdDigits_length]; omega)]
  case right =>
    intro h
    rw [exec_ldBVx_of_gt x h]
    exact entersFault_raise s _

/-- Settles O25: the registers are the written run, and I is the multiplexer's. -/
theorem registerDumpStoresAndAdvancesIOrFaults : Obligations.RegisterDumpStoresAndAdvancesIOrFaults := by
  intro x s
  constructor
  case left =>
    intro h
    refine ⟨_, exec_ldMemVx_of_le x h, ?stored, ?others, indexAfter_of_quirk x, indexAfter_of_not_quirk x,
      (onlyChanges_setMem s _).trans_pair (onlyChanges_setI _ _)⟩
    case stored =>
      intro r hr
      rw [State.setI_mem, State.setMem_mem, read_dump, if_pos ⟨by omega, Nat.add_le_add_left hr _⟩]
      simp
    case others =>
      intro a ha
      rw [State.setI_mem, State.setMem_mem, read_dump, if_neg (by omega)]
  case right =>
    intro h
    rw [exec_ldMemVx_of_gt x h]
    exact entersFault_raise s _

/-- Settles O26: the loaded bytes fill V0 to VX, and I is the multiplexer's. -/
theorem registerLoadLoadsAndAdvancesIOrFaults : Obligations.RegisterLoadLoadsAndAdvancesIOrFaults := by
  intro x s
  constructor
  case left =>
    intro h
    refine ⟨_, exec_ldVxMem_of_le x h, ?loaded, ?others, indexAfter_of_quirk x, indexAfter_of_not_quirk x,
      (onlyChanges_loadRegs s _).trans_pair (onlyChanges_setI _ _)⟩
    case loaded =>
      intro r hr
      rw [State.getV_setI, getV_loadRegs_bytesAtI, if_pos hr]
    case others =>
      intro r hr
      rw [State.getV_setI, getV_loadRegs_bytesAtI, if_neg (not_le_of_gt hr)]
  case right =>
    intro h
    rw [exec_ldVxMem_of_gt x h]
    exact entersFault_raise s _

/-- Settles O27: the load reads, from the same I, the run that the dump wrote. -/
theorem dumpThenLoadRestoresRegisters : Obligations.DumpThenLoadRestoresRegisters := by
  intro x s v' h
  refine ⟨_, _, exec_ldMemVx_of_le x h, exec_ldVxMem_of_le x h, fun r hr => ?_⟩
  rw [State.getV_setI, getV_loadRegs_bytesAtI, if_pos hr]
  show (s.mem.writeAll s.i.toNat (s.dumpBytes x)).read (s.i.toNat + r.val) = s.getV r
  rw [read_dump, if_pos ⟨by omega, Nat.add_le_add_left hr _⟩]
  simp

/-- A fetch from a state with the given pc and memory, as a number. -/
theorem fetch_setPc {t : State} {a : Word} (h : a.toNat ≤ 4094) : ∃ op, (t.setPc a).fetch = .ok op ∧
    op.toNat = 256 * (t.mem.read a.toNat).toNat + (t.mem.read (a.toNat + 1)).toNat :=
  ⟨_, fetch_of_pc_le (s := t.setPc a) h, wordOfBytes_toNat _ _⟩

/-- Settles O28: a fetch reads two bytes of the memory that the store wrote. -/
theorem storesAreSeenByTheNextFetch : Obligations.StoresAreSeenByTheNextFetch := by
  intro x s a ha
  constructor
  case left =>
    intro h
    obtain ⟨op, hfetch, hop⟩ := fetch_setPc (t := s.setMem (s.mem.writeAll s.i.toNat (bcdDigits (s.getV x)))) ha
    refine ⟨_, op, exec_ldBVx_of_le x h, hfetch, ?_⟩
    rw [hop, State.setMem_mem, read_bcd, read_bcd]
  case right =>
    intro h
    obtain ⟨op, hfetch, hop⟩ :=
      fetch_setPc (t := (s.setMem (s.mem.writeAll s.i.toNat (s.dumpBytes x))).setI (s.indexAfter x)) ha
    refine ⟨_, op, exec_ldMemVx_of_le x h, hfetch, ?_⟩
    rw [hop, State.setI_mem, State.setMem_mem, read_dump_toNat, read_dump_toNat]

end Sys2Proof.Machine
end

section
/-! Proofs about `DRW` (43_draw.md R161, R162): a draw toggles a list of pixels without repetition, one after another,
so each listed pixel changes once, and `hit` says whether one of them was set before. -/

namespace Sys2Proof.Machine

/-- A pixel of the screen, column and row. -/
abbrev Pixel := Fin 64 × Fin 32

/-- Toggle the listed pixels in order. -/
def drawAll (d : Drawing) (ps : List Pixel) : Drawing := ps.foldl (fun d p => drawPixel d p.1 p.2) d

/-- The pixels that the set bits of one sprite row fall on, for the columns `cs`. -/
def columnPixels (wx : Bool) (x0 : Nat) (y : Fin 32) (row : Byte) (cs : List Nat) : List Pixel :=
  cs.filterMap fun c => if spriteBit row c then (place 64 wx (x0 + c)).map (·, y) else none

/-- The pixels of the sprite row at vertical coordinate `p`; none when it is clipped. -/
def rowPixels (wx wy : Bool) (x0 p : Nat) (row : Byte) : List Pixel :=
  match place 32 wy p with
  | some y => columnPixels wx x0 y row (List.range 8)
  | none => []

/-- The pixels of a whole sprite whose top row is at vertical coordinate `p`. -/
def spritePixels (wx wy : Bool) (x0 : Nat) : Nat → List Byte → List Pixel
  | _, [] => []
  | p, row :: rows => rowPixels wx wy x0 p row ++ spritePixels wx wy x0 (p + 1) rows

section DrawingIsToggling
variable (wx wy : Bool) (x0 : Nat)

theorem drawAll_append (d : Drawing) (ps qs : List Pixel) : drawAll d (ps ++ qs) = drawAll (drawAll d ps) qs :=
  List.foldl_append

theorem drawColumns_eq_drawAll (y : Fin 32) (row : Byte) (cs : List Nat) (d : Drawing) :
    drawColumns wx x0 y row cs d = drawAll d (columnPixels wx x0 y row cs) := by
  induction cs generalizing d with
  | nil => rfl
  | cons c cs ih =>
    simp only [drawColumns, ih, columnPixels, List.filterMap_cons]
    cases spriteBit row c with
    | false => rfl
    | true => cases place 64 wx (x0 + c) <;> rfl

theorem drawRows_eq_drawAll (p : Nat) (rows : List Byte) (d : Drawing) :
    drawRows wx wy x0 p rows d = drawAll d (spritePixels wx wy x0 p rows) := by
  induction rows generalizing p d with
  | nil => rfl
  | cons row rows ih =>
    rw [drawRows, ih, spritePixels, drawAll_append, rowPixels]
    cases place 32 wy p with
    | none => rfl
    | some y => simp only [drawColumns_eq_drawAll]

theorem mem_columnPixels {y : Fin 32} {row : Byte} {cs : List Nat} {q : Pixel} : q ∈ columnPixels wx x0 y row cs ↔
    ∃ c ∈ cs, spriteBit row c = true ∧ place 64 wx (x0 + c) = some q.1 ∧ q.2 = y := by
  obtain ⟨px, py⟩ := q
  simp [columnPixels, List.mem_filterMap, Prod.ext_iff, eq_comm (a := py)]

theorem mem_rowPixels {p : Nat} {row : Byte} {q : Pixel} : q ∈ rowPixels wx wy x0 p row ↔
    place 32 wy p = some q.2 ∧ ∃ c < 8, spriteBit row c = true ∧ place 64 wx (x0 + c) = some q.1 := by
  unfold rowPixels
  cases place 32 wy p with
  | none => simp
  | some y => simp [mem_columnPixels, eq_comm (a := y)]; tauto

theorem mem_spritePixels {p : Nat} {rows : List Byte} {q : Pixel} : q ∈ spritePixels wx wy x0 p rows ↔
    ∃ r, ∃ h : r < rows.length, q ∈ rowPixels wx wy x0 (p + r) rows[r] := by
  induction rows generalizing p with
  | nil => simp [spritePixels]
  | cons row rows ih =>
    rw [spritePixels, List.mem_append, ih]
    constructor
    · rintro (hrow | ⟨r, hr, hq⟩)
      · exact ⟨0, by simp, hrow⟩
      · exact ⟨r + 1, by simpa using hr, by simpa [Nat.add_assoc, Nat.add_comm 1] using hq⟩
    · rintro ⟨r, hr, hq⟩
      cases r with
      | zero => exact .inl hq
      | succ r => exact .inr ⟨r, by simpa using hr, by simpa [Nat.add_assoc, Nat.add_comm 1] using hq⟩

/-- Eight neighbouring columns are placed on eight different columns of the screen. -/
theorem nodup_columnPixels (y : Fin 32) (row : Byte) : (columnPixels wx x0 y row (List.range 8)).Nodup := by
  refine List.pairwise_filterMap.mpr (List.pairwise_lt_range.imp_of_mem ?_)
  intro c c' hc hc' hlt q hq q' hq' heq
  subst heq
  rw [List.mem_range] at hc hc'
  have hplace : ∀ k, (if spriteBit row k then (place 64 wx (x0 + k)).map (·, y) else none) = some q →
      (x0 + k) % 64 = q.1.val := by
    intro k hk
    cases hbit : spriteBit row k with
    | false => simp [hbit] at hk
    | true =>
      simp only [hbit, if_true, Option.map_eq_some_iff] at hk
      obtain ⟨px, hpx, rfl⟩ := hk
      exact (place_eq_some.mp hpx).1
  have h1 := hplace c hq
  have h2 := hplace c' hq'
  omega

theorem nodup_rowPixels (p : Nat) (row : Byte) : (rowPixels wx wy x0 p row).Nodup := by
  unfold rowPixels
  cases place 32 wy p with
  | none => exact List.nodup_nil
  | some y => exact nodup_columnPixels wx x0 y row

/-- At most 32 neighbouring rows are placed on different rows of the screen. -/
theorem nodup_spritePixels (p : Nat) {rows : List Byte} (hlen : rows.length ≤ 32) :
    (spritePixels wx wy x0 p rows).Nodup := by
  induction rows generalizing p with
  | nil => exact List.nodup_nil
  | cons row rows ih =>
    rw [List.length_cons] at hlen
    refine List.nodup_append.mpr ⟨nodup_rowPixels wx wy x0 p row, ih (p + 1) (by omega), ?_⟩
    intro q hq q' hq' heq
    subst heq
    obtain ⟨r, hr, hrow⟩ := (mem_spritePixels wx wy x0).mp hq'
    have h1 := (place_eq_some.mp ((mem_rowPixels wx wy x0).mp hq).1).1
    have h2 := (place_eq_some.mp ((mem_rowPixels wx wy x0).mp hrow).1).1
    omega

end DrawingIsToggling

section TogglingOnce
variable {ps : List Pixel}

/-- Toggling pixels without repetition flips exactly the listed ones. -/
theorem framePixel_drawAll (h : ps.Nodup) (d : Drawing) (x : Fin 64) (y : Fin 32) :
    framePixel (drawAll d ps).frame x y = (framePixel d.frame x y ^^ decide ((x, y) ∈ ps)) := by
  induction ps generalizing d with
  | nil => simp [drawAll]
  | cons q ps ih =>
    obtain ⟨hq, hps⟩ := List.nodup_cons.mp h
    have hstep : drawAll d (q :: ps) = drawAll (drawPixel d q.1 q.2) ps := rfl
    rw [hstep, ih hps, drawPixel, framePixel_toggle]
    by_cases heq : (x, y) = q
    · subst heq
      simp [hq]
    · have hne : ¬ (q.1 = x ∧ q.2 = y) := fun hxy => heq (Prod.ext hxy.1.symm hxy.2.symm)
      simp [hne, heq]

/-- `hit` after toggling pixels without repetition: one of them was set at the start. -/
theorem hit_drawAll (h : ps.Nodup) (d : Drawing) : (drawAll d ps).hit = true ↔
    d.hit = true ∨ ∃ q ∈ ps, framePixel d.frame q.1 q.2 = true := by
  induction ps generalizing d with
  | nil => simp [drawAll]
  | cons q ps ih =>
    obtain ⟨hq, hps⟩ := List.nodup_cons.mp h
    have hstep : drawAll d (q :: ps) = drawAll (drawPixel d q.1 q.2) ps := rfl
    have hkeep : ∀ q' ∈ ps, framePixel (drawPixel d q.1 q.2).frame q'.1 q'.2 = framePixel d.frame q'.1 q'.2 := by
      intro q' hq'
      have hne : ¬ (q.1 = q'.1 ∧ q.2 = q'.2) := fun hxy => hq (Prod.ext hxy.1 hxy.2 ▸ hq')
      simp [drawPixel, hne]
    rw [hstep, ih hps, List.exists_mem_cons_iff]
    constructor
    · rintro (hhit | ⟨q', hq', hset⟩)
      · rcases (Bool.or_eq_true _ _).mp hhit with hstart | hset
        · exact .inl hstart
        · exact .inr (.inl hset)
      · exact .inr (.inr ⟨q', hq', hkeep q' hq' ▸ hset⟩)
    · rintro (hhit | hset | ⟨q', hq', hset⟩)
      · exact .inl (by simp [drawPixel, hhit])
      · exact .inl (by simp [drawPixel, hset])
      · exact .inr ⟨q', hq', (hkeep q' hq').symm ▸ hset⟩

end TogglingOnce

section Draw
variable {s : State} (x y : RegId) (n : Fin 16)

/-- The sprite rows of a draw, read from I upward. -/
def State.spriteRows (s : State) (n : Fin 16) : List Byte := (List.range n.val).map fun k => s.mem.read (s.i.toNat + k)

/-- The pixels of a draw. -/
def State.drawnPixels (s : State) (x y : RegId) (n : Fin 16) : List Pixel :=
  spritePixels (wrapX s.vwrap) (wrapY s.vwrap) ((s.getV x).toNat % 64) ((s.getV y).toNat % 32) (s.spriteRows n)

theorem draw_eq_drawAll : s.draw x y (s.spriteRows n) = drawAll ⟨s.fb, false⟩ (s.drawnPixels x y n) :=
  drawRows_eq_drawAll _ _ _ _ _ _

theorem nodup_drawnPixels : (s.drawnPixels x y n).Nodup :=
  nodup_spritePixels _ _ _ _ (by simp [State.spriteRows]; omega)

/-- A coordinate is placed where it lands. -/
theorem place_eq_some_iff_landsOn {size : Nat} [NeZero size] {wrap : Bool} {p : Nat} {q : Fin size} :
    place size wrap p = some q ↔ landsOn size wrap p q.val := by
  rw [place_eq_some, landsOn]
  constructor
  · rintro ⟨hmod, hwrap | hlt⟩
    · exact .inr ⟨hwrap, hmod⟩
    · exact .inl (by rwa [Nat.mod_eq_of_lt hlt] at hmod)
  · rintro (heq | ⟨hwrap, hmod⟩)
    · exact ⟨by rw [heq, Nat.mod_eq_of_lt q.isLt], .inr (heq ▸ q.isLt)⟩
    · exact ⟨hmod, .inl hwrap⟩

/-- The pixels of a draw are those that the sprite covers. -/
theorem mem_drawnPixels (px : Fin 64) (py : Fin 32) :
    (px, py) ∈ s.drawnPixels x y n ↔ s.spriteCovers x y n px py := by
  simp only [State.drawnPixels, mem_spritePixels, mem_rowPixels, place_eq_some_iff_landsOn, State.spriteCovers,
    State.spriteRows, List.length_map, List.length_range, List.getElem_map, List.getElem_range, spriteBit, wrapX, wrapY]
  constructor
  · rintro ⟨r, hr, hrow, c, hc, hbit, hcol⟩
    exact ⟨r, c, hr, hc, hbit, hrow, hcol⟩
  · rintro ⟨r, c, hr, hc, hbit, hrow, hcol⟩
    exact ⟨r, hr, hrow, c, hc, hbit, hcol⟩

/-- The state after a draw that fits in memory. -/
def State.drawn (s : State) (x y : RegId) (n : Fin 16) : State :=
  (s.setFb (drawAll ⟨s.fb, false⟩ (s.drawnPixels x y n)).frame).setFlag
    (drawAll ⟨s.fb, false⟩ (s.drawnPixels x y n)).hit

theorem exec_drwVxVyN_of_inRange (h : InRange s.i.toNat n.val) :
    exec (.drwVxVyN x y n) s = .next (s.drawn x y n) := by
  rw [exec_drwVxVyN, load_of_inRange h, State.orRaise_ok]
  change Host.Outcome.next ((s.setFb (s.draw x y (s.spriteRows n)).frame).setFlag (s.draw x y (s.spriteRows n)).hit) = _
  rw [draw_eq_drawAll, State.drawn]

theorem exec_drwVxVyN_of_not_inRange (h : ¬ InRange s.i.toNat n.val) :
    exec (.drwVxVyN x y n) s = .next (s.raise (rangeFault s.i.toNat)) := by
  rw [exec_drwVxVyN, load_of_not_inRange h, State.orRaise_error]

theorem pixel_drawn (px : Fin 64) (py : Fin 32) : (s.drawn x y n).pixel px py =
    (s.pixel px py ^^ decide ((px, py) ∈ s.drawnPixels x y n)) :=
  framePixel_drawAll (nodup_drawnPixels x y n) _ px py

theorem getV_drawn (r : RegId) : (s.drawn x y n).getV r =
    if r = 15 then flagByte (drawAll ⟨s.fb, false⟩ (s.drawnPixels x y n)).hit else s.getV r := by
  rw [State.drawn, getV_setFlag, State.getV_setFb]

/-- The flag of a draw: some covered pixel was set. -/
theorem hit_drawn : (drawAll ⟨s.fb, false⟩ (s.drawnPixels x y n)).hit = true ↔
    ∃ px py, s.spriteCovers x y n px py ∧ s.pixel px py = true := by
  rw [hit_drawAll (nodup_drawnPixels x y n)]
  simp [mem_drawnPixels, State.pixel]

theorem onlyChanges_drawn : OnlyChanges [.v, .framebuffer] s (s.drawn x y n) :=
  ((onlyChanges_setFb s _).trans_pair (onlyChanges_setV _ _ _)).mono (by simp)

end Draw

/-- Settles O19: the covered pixels are listed without repetition, so each is toggled once and `hit` sees the frame
as it was before the draw; out of range nothing is drawn. -/
theorem drawXorsTheSpriteAndReportsCollision : Obligations.DrawXorsTheSpriteAndReportsCollision := by
  intro x y n s
  constructor
  case left =>
    intro hfit
    refine ⟨s.drawn x y n, exec_drwVxVyN_of_inRange x y n (by simp only [InRange]; omega), ?covered, ?uncovered, ?hit,
      ?noHit, ?others, onlyChanges_drawn x y n⟩
    case covered =>
      intro px py hc
      simp [pixel_drawn, mem_drawnPixels, hc]
    case uncovered =>
      intro px py hc
      simp [pixel_drawn, mem_drawnPixels, hc]
    case hit =>
      intro h
      rw [getV_drawn, if_pos rfl, (hit_drawn x y n).mpr h]; rfl
    case noHit =>
      intro h
      rw [getV_drawn, if_pos rfl, Bool.eq_false_iff.mpr (mt (hit_drawn x y n).mp h)]; rfl
    case others =>
      intro r hr
      rw [getV_drawn, if_neg hr]
  case right =>
    intro hout
    rw [exec_drwVxVyN_of_not_inRange x y n (by simp only [InRange]; omega)]
    exact entersFault_raise s _

/-- The first draw leaves everything that says which pixels the second one covers. -/
theorem drawnPixels_drawn (s : State) {x y : RegId} (hx : x ≠ 15) (hy : y ≠ 15) (n : Fin 16) :
    (s.drawn x y n).drawnPixels x y n = s.drawnPixels x y n := by
  unfold State.drawnPixels
  rw [getV_drawn, getV_drawn, if_neg hx, if_neg hy]
  rfl

/-- Settles O20: both draws toggle the same pixels. -/
theorem drawingTwiceRestoresTheScreen : Obligations.DrawingTwiceRestoresTheScreen := by
  intro x y n s hx hy hfit
  refine ⟨s.drawn x y n, (s.drawn x y n).drawn x y n, exec_drwVxVyN_of_inRange x y n (.inr hfit),
    exec_drwVxVyN_of_inRange x y n (.inr hfit), frame_ext fun px py => ?_⟩
  change ((s.drawn x y n).drawn x y n).pixel px py = s.pixel px py
  rw [pixel_drawn, drawnPixels_drawn s hx hy, pixel_drawn, Bool.xor_assoc, Bool.xor_self, Bool.xor_false]

end Sys2Proof.Machine
end

section
/-! Proofs about one pass and one step (30_encoding.md R96, 60_exceptions.md R216). -/

namespace Sys2Proof.Machine

/-- The byte decoder on two bytes, read backwards: what it accepts is what the word decodes to. -/
theorem decodeWord_of_decode_ok {hi lo : Byte} {i : Instr} {rest : List Byte}
    (h : decode [hi, lo] = .ok (i, rest)) : decodeWord (wordOfBytes hi lo) = some i := by
  simp only [decode] at h
  split at h
  case h_1 i' hword => cases h; exact hword
  case h_2 => cases h

theorem decodeWord_of_decode_unknown {hi lo : Byte} {op : Word}
    (h : decode [hi, lo] = .error (.unknownOpcode op)) :
    decodeWord (wordOfBytes hi lo) = none ∧ op = wordOfBytes hi lo := by
  simp only [decode] at h
  split at h
  case h_1 => cases h
  case h_2 hword => cases h; exact ⟨hword, rfl⟩

/-- Settles O33: `step` takes the head of the script, and delivering an event other than `exec` is its effect. -/
theorem stepPerformsTheNextEvent : Obligations.StepPerformsTheNextEvent := by
  intro s
  refine ⟨step_of_script_nil, ?exec, ?event⟩
  case exec => exact fun rest h => step_of_script_cons h
  case event =>
    intro e rest he h
    rw [step_of_script_cons h, deliver_of_ne_exec he]

/-- A pass of a running core whose word decodes. -/
theorem execPass_of_decode {s : State} {i : Instr} (hrun : s.running) (hpc : s.pc.toNat ≤ 4094)
    (h : decodeWord s.wordAtPc = some i) : execPass s = exec i (s.setPc (s.pc + 2)) := by
  rw [execPass_of_pc_le hrun hpc, runWord_of_some h, State.advance_eq]

/-- Settles O34: both kinds of script lead to a pass, which runs the word at the pc. -/
theorem stepRunsTheDecodedInstruction : Obligations.StepRunsTheDecodedInstruction := by
  intro s i hrun hpc hdec
  have hword : decodeWord s.wordAtPc = some i := decodeWord_of_decode_ok hdec
  constructor
  case left =>
    intro hs
    rw [step_of_script_nil hs, execPass_of_decode hrun hpc hword]
  case right =>
    intro rest hs
    rw [step_of_script_cons hs]
    exact execPass_of_decode (s := { s with script := rest }) hrun hpc hword

/-- Settles O35: the pass advances the pc and logs the word. -/
theorem unknownWordIsALoggedNoOp : Obligations.UnknownWordIsALoggedNoOp := by
  intro s op hrun hpc hdec
  obtain ⟨hword, rfl⟩ := decodeWord_of_decode_unknown hdec
  refine ⟨s.advance.logUnknown s.wordAtPc s.pc, ?pass, rfl, rfl,
    (onlyChanges_setPc s _).trans_pair (onlyChanges_logUnknown _ _ _)⟩
  case pass => exact (execPass_of_pc_le hrun hpc).trans (runWord_of_none hword)

/-- Settles O36: the fetch of a pc above 4094 raises before the advance. -/
theorem fetchOutOfMemoryFaults : Obligations.FetchOutOfMemoryFaults := by
  intro s hrun hpc
  rw [execPass_of_pc_gt hrun hpc]
  exact entersFault_raise s _

/-- Settles O37: the first two checks of the pass. -/
theorem stoppedCorePassesChangeNothing : Obligations.StoppedCorePassesChangeNothing :=
  fun _ => execPass_of_stopped

end Sys2Proof.Machine
end

section
/-! Proofs about the host's events other than resets (60_exceptions.md R210 to R216). -/

namespace Sys2Proof.Machine

/-- New values of the input levels change the inputs alone. -/
theorem onlyChanges_inputs (s : State) (k : BitVec 16) (p ql qs vw : Bool) : OnlyChanges [.inputs] s
    { s with keys := k, pause := p, quirkLoadStore := ql, quirkShift := qs, vwrap := vw } := by
  intro p hp; cases p <;> simp_all [Part.same]

/-- Settles O40: each event is one field update. -/
theorem inputChangesSetTheirLevelOnly : Obligations.InputChangesSetTheirLevelOnly := by
  intro s k b
  exact ⟨⟨_, rfl, rfl, rfl, rfl, rfl, rfl, onlyChanges_inputs s k s.pause s.quirkLoadStore s.quirkShift s.vwrap⟩,
    ⟨_, rfl, rfl, rfl, rfl, rfl, rfl, onlyChanges_inputs s s.keys b s.quirkLoadStore s.quirkShift s.vwrap⟩,
    ⟨_, rfl, rfl, rfl, rfl, rfl, rfl, onlyChanges_inputs s s.keys s.pause b s.quirkShift s.vwrap⟩,
    ⟨_, rfl, rfl, rfl, rfl, rfl, rfl, onlyChanges_inputs s s.keys s.pause s.quirkLoadStore b s.vwrap⟩,
    ⟨_, rfl, rfl, rfl, rfl, rfl, rfl, onlyChanges_inputs s s.keys s.pause s.quirkLoadStore s.quirkShift b⟩⟩

theorem onlyChanges_terminate (s : State) : OnlyChanges [.terminated] s s.terminate := by
  intro p hp; cases p <;> simp_all [Part.same, State.terminate]

/-- Settles O42: `terminate` is one field update. -/
theorem terminateStopsTheCore : Obligations.TerminateStopsTheCore :=
  fun s => ⟨s.terminate, rfl, rfl, onlyChanges_terminate s⟩

theorem terminate_of_terminated {s : State} (h : s.terminated = true) : s.terminate = s := by
  rw [State.terminate, ← h]

/-- Settles O38: the events of the core itself leave a terminated state as it is, the others are input levels. -/
theorem terminatedCoreIgnoresEventsUntilColdReset : Obligations.TerminatedCoreIgnoresEventsUntilColdReset := by
  intro s e h he
  cases e with
  | coldReset => exact absurd rfl he
  | exec => exact ⟨s, execPass_of_stopped (.inl h), .refl _ s⟩
  | tick60 => exact ⟨s, congrArg _ (tick_of_terminated h), .refl _ s⟩
  | terminate => exact ⟨s, congrArg _ (terminate_of_terminated h), .refl _ s⟩
  | softReset => exact ⟨s, congrArg _ (softReset_of_terminated h), .refl _ s⟩
  | load img => exact ⟨s, congrArg _ (loadRom_of_refused (.inr h)), .refl _ s⟩
  | sampleOutputs => exact ⟨s, rfl, .refl _ s⟩
  | setPause b => exact ⟨_, rfl, onlyChanges_inputs s s.keys b s.quirkLoadStore s.quirkShift s.vwrap⟩
  | setKeys k => exact ⟨_, rfl, onlyChanges_inputs s k s.pause s.quirkLoadStore s.quirkShift s.vwrap⟩
  | setQuirkLoadStore b => exact ⟨_, rfl, onlyChanges_inputs s s.keys s.pause b s.quirkShift s.vwrap⟩
  | setQuirkShift b => exact ⟨_, rfl, onlyChanges_inputs s s.keys s.pause s.quirkLoadStore b s.vwrap⟩
  | setVwrap b => exact ⟨_, rfl, onlyChanges_inputs s s.keys s.pause s.quirkLoadStore s.quirkShift b⟩

/-- A timer's share of a tick as a number: natural subtraction stops at 0. -/
theorem countDown_toNat (b : Byte) : (countDown b).toNat = b.toNat - 1 := by
  unfold countDown
  split
  case isTrue hzero => rw [hzero]; rfl
  case isFalse hne =>
    have hpos : b.toNat ≠ 0 := fun h => hne (BitVec.eq_of_toNat_eq h)
    have hlt := b.isLt
    rw [BitVec.toNat_sub]
    simp
    omega

theorem onlyChanges_timers (s : State) (d b : Byte) : OnlyChanges [.dt, .st] s { s with dt := d, st := b } := by
  intro p hp; cases p <;> simp_all [Part.same]

/-- Settles O39: a tick counts both timers down, unless terminated. -/
theorem tickLowersBothTimers : Obligations.TickLowersBothTimers := by
  intro s
  refine ⟨s.tick, rfl, tick_of_terminated, fun h => ?live⟩
  case live =>
    rw [tick_of_live h]
    exact ⟨countDown_toNat _, countDown_toNat _, onlyChanges_timers s _ _⟩

/-- Settles O41, by induction on the number of ticks. -/
theorem timerReachesZeroAfterItsValueInTicks : Obligations.TimerReachesZeroAfterItsValueInTicks := by
  intro k
  induction k with
  | zero => exact fun s _ _ => ⟨s, rfl, rfl, rfl⟩
  | succ k ih =>
    intro s hlive hscript
    rw [List.replicate_succ] at hscript
    have hlive' : ({ s with script := List.replicate k .tick60 } : State).terminated = false := hlive
    have hstep : step s = .next { s with
        script := List.replicate k .tick60, dt := countDown s.dt, st := countDown s.st } := by
      rw [step_of_script_cons hscript, deliver_of_ne_exec (by decide)]
      exact congrArg _ (tick_of_live hlive')
    obtain ⟨t, hrun, hdt, hst⟩ := ih { s with
      script := List.replicate k .tick60, dt := countDown s.dt, st := countDown s.st } hlive rfl
    refine ⟨t, ⟨_, hstep, hrun⟩, ?_, ?_⟩
    · rw [hdt, countDown_toNat, Nat.sub_sub, Nat.add_comm]
    · rw [hst, countDown_toNat, Nat.sub_sub, Nat.add_comm]

/-- An inserted event comes before those of its rank or later, after those of an earlier one. -/
theorem insertEvent_sorted (e : Event) {es : List Event} (h : es.Pairwise fun e f => eventRank e ≤ eventRank f) :
    (insertEvent e es).Pairwise fun e f => eventRank e ≤ eventRank f := by
  induction es with
  | nil => exact List.pairwise_singleton _ _
  | cons f es ih =>
    obtain ⟨hf, hes⟩ := List.pairwise_cons.mp h
    rw [insertEvent]
    split
    case isTrue hle =>
      refine List.pairwise_cons.mpr ⟨fun g hg => ?_, h⟩
      rcases List.mem_cons.mp hg with rfl | hg
      · exact hle
      · exact hle.trans (hf g hg)
    case isFalse hgt =>
      refine List.pairwise_cons.mpr ⟨fun g hg => ?_, ih hes⟩
      rcases List.mem_cons.mp ((insertEvent_perm e es).mem_iff.mp hg) with rfl | hg
      · exact (Nat.lt_of_not_ge hgt).le
      · exact hf g hg

theorem arrange_perm (es : List Event) : (arrange es).Perm es := by
  induction es with
  | nil => exact .refl _
  | cons e es ih => exact (insertEvent_perm e (arrange es)).trans (ih.cons e)

theorem arrange_sorted (es : List Event) : (arrange es).Pairwise fun e f => eventRank e ≤ eventRank f := by
  induction es with
  | nil => exact .nil
  | cons e es ih => exact insertEvent_sorted e ih

/-- Settles O49: the ranks are numbers by constructor, and arranging is an insertion sort by rank. -/
theorem coincidentEventsAreOrdered : Obligations.CoincidentEventsAreOrdered := by
  refine ⟨fun img k b => ?ranks, fun es => ⟨arrange_perm es, arrange_sorted es⟩⟩
  case ranks =>
    refine ⟨by decide, Nat.lt_succ_self 1, Nat.lt_succ_self 2, ?levels, by decide, by decide⟩
    case levels => rintro level (rfl | rfl | rfl | rfl | rfl) <;> exact ⟨Nat.lt_succ_self 3, Nat.lt_succ_self 4⟩

end Sys2Proof.Machine
end

section
/-! Proofs about the resets and the load (70_reset_and_hazards.md R240 to R242), and about the outputs (10_state.md R31,
R34; 43_draw.md R163). -/

namespace Sys2Proof.Machine

/-- The font table's addresses, which all lie in the reserved region. -/
theorem inFont_iff (a : Nat) : inFont a = true ↔ fontBase ≤ a ∧ a < fontBase + 80 := by
  have hbase := fontBase_le
  simp only [inFont, Bool.and_eq_true, decide_eq_true_eq]
  omega

/-- What an unlisted address reads as: a font byte inside the table, zero outside it. -/
theorem unwritten_of_font {a : Nat} (h : fontBase ≤ a ∧ a < fontBase + 80) :
    unwritten a = fontTable.getD (a - fontBase) 0 := by
  rw [unwritten, (inFont_iff a).mpr h, cond_true]

theorem unwritten_of_not_font {a : Nat} (h : ¬ (fontBase ≤ a ∧ a < fontBase + 80)) : unwritten a = 0 := by
  rw [unwritten, Bool.eq_false_iff.mpr (mt (inFont_iff a).mp h), cond_false]

/-- Memory before the ROM is copied: the font restored, the program region zero, the other reserved bytes kept. -/
theorem read_cleared (m : Memory) (a : Nat) : m.clearProgram.restoreFont.read a =
    if fontBase ≤ a ∧ a < fontBase + 80 then fontTable.getD (a - fontBase) 0
    else if a < 0x200 then m.read a else 0 := by
  rw [Memory.read_restoreFont, Memory.read_clearProgram]
  by_cases hfont : fontBase ≤ a ∧ a < fontBase + 80
  · rw [if_pos ((inFont_iff a).mpr hfont), if_pos hfont, unwritten_of_font hfont]
  · rw [if_neg (mt (inFont_iff a).mp hfont), if_neg hfont]

theorem read_softResetMemory (m : Memory) (rom : List Byte) (a : Nat) :
    (softResetMemory m rom).read a = softResetByte m rom a := by
  have hbase := fontBase_le
  rw [softResetMemory, softResetByte, read_writeAll]
  by_cases hrom : 0x200 ≤ a ∧ a < 0x200 + rom.length
  · rw [dif_pos hrom, if_neg (by omega), if_neg (by omega), List.getD_eq_getElem _ _ (by omega)]
  · rw [dif_neg hrom, read_cleared]
    by_cases hres : a < 0x200
    · rw [if_pos hres, if_pos hres]
    · rw [if_neg hres, if_neg hres, List.getD_eq_default rom 0 (by omega)]

/-- A state with the values that `CoreClear()` writes is cleared, whatever its other fields. -/
theorem coreCleared_coreClear (s : State) : s.coreClear.coreCleared := by
  refine ⟨?registers, rfl, rfl, rfl, ?stack, rfl, rfl, ?pixels, rfl, rfl, rfl⟩
  case registers => exact fun r => Vector.getElem_replicate r.isLt
  case stack => exact fun k hk => Vector.getElem_replicate hk
  case pixels => exact fun x y => framePixel_blank x y

/-- Settles O43: the core is cleared and memory is rebuilt, unless terminated. -/
theorem softResetClearsCoreAndReloadsMemory : Obligations.SoftResetClearsCoreAndReloadsMemory := by
  intro s
  refine ⟨s.softReset, rfl, softReset_of_terminated, fun h => ?live⟩
  case live =>
    rw [softReset_of_live h]
    exact ⟨coreCleared_coreClear s, fun a _ => read_softResetMemory _ _ a, h, rfl, rfl, Part.same_refl .inputs s⟩

theorem wfRom_iff (img : List Byte) : wfRom img = true ↔ img.length ≤ 3584 := decide_eq_true_iff

/-- Settles O44: a refused load is no event, an accepted one is a soft reset with the new image. -/
theorem loadKeepsImageAndResetsOrChangesNothing : Obligations.LoadKeepsImageAndResetsOrChangesNothing := by
  intro s img
  refine ⟨s.loadRom img, rfl, fun h => ?refused, fun hlen h => ?accepted⟩
  case refused =>
    refine loadRom_of_refused (h.imp_left fun hlong => ?_)
    exact Bool.eq_false_iff.mpr (mt (wfRom_iff img).mp (Nat.not_le_of_gt hlong))
  case accepted =>
    rw [loadRom_of_accepted ((wfRom_iff img).mpr hlen) h, softReset_of_live (s := { s with romImage := img }) h]
    exact ⟨rfl, coreCleared_coreClear s, fun a _ => read_softResetMemory _ _ a, h, rfl, Part.same_refl .inputs s⟩

/-- Memory without a listed cell is what a soft reset without a ROM leaves of it. -/
theorem unwritten_eq_softResetByte (a : Nat) : unwritten a = softResetByte [] [] a := by
  unfold softResetByte
  by_cases hfont : fontBase ≤ a ∧ a < fontBase + 80
  · rw [if_pos hfont, unwritten_of_font hfont]
  · rw [if_neg hfont, Memory.read_nil, unwritten_of_not_font hfont, List.getD_nil, ite_self]

theorem unwritten_of_outside {a : Nat} (h : a < fontBase ∨ fontBase + 80 ≤ a) : unwritten a = 0 :=
  unwritten_of_not_font (by omega)

/-- Settles O45: the core is cleared, and memory lists no cell. -/
theorem coldResetClearsEverythingButInputs : Obligations.ColdResetClearsEverythingButInputs := by
  intro s
  exact ⟨s.coldReset, rfl, coreCleared_coreClear s, rfl, rfl, rfl, fun a _ => unwritten_eq_softResetByte a,
    fun _ => unwritten_font, fun _ _ => unwritten_of_outside, Part.same_refl .inputs s⟩

/-- Settles O46: the reset state is a cleared core whose memory lists no cell, and the table is the listed bytes. -/
theorem resetStateHasTheSpecsValues : Obligations.ResetStateHasTheSpecsValues :=
  ⟨coreCleared_coreClear State.reset, rfl, rfl, rfl, rfl, fun _ => unwritten_font, fun _ _ => unwritten_of_outside⟩

/-- Settles O47: the four branches of the view. -/
theorem runStateIsTheViewByPriority : Obligations.RunStateIsTheViewByPriority := by
  intro s
  refine ⟨?terminated, ?paused, ?awaiting, ?running⟩
  case terminated => intro ht; simp [State.runState, ht]
  case paused => intro ht hp; simp [State.runState, ht, hp]
  case awaiting => intro ht hp hk; simp [State.runState, ht, hp, hk]
  case running => intro ht hp hk; simp [State.runState, ht, hp, hk]

/-- Element y * 64 + x of the flat framebuffer is pixel (x, y). -/
theorem fbOut_eq_pixel {s : State} {x : Fin 64} {y : Fin 32} {k : Fin 2048} (h : k.val = y.val * 64 + x.val) :
    s.fbOut k = s.pixel x y := by
  have hx : k.val % 64 = x.val := by omega
  have hy : k.val / 64 = y.val := by omega
  simp only [State.fbOut, hx, hy]

/-- Settles O48: each output is a function of one field. -/
theorem outputsShowTheState : Obligations.OutputsShowTheState := by
  intro s
  refine ⟨s.soundActive_iff, fun x y k => fbOut_eq_pixel, ?none, ?overflow, ?underflow, ?memory⟩
  case none => intro h; rw [State.faultOut, h]; rfl
  case overflow => intro h; rw [State.faultOut, h]; rfl
  case underflow => intro h; rw [State.faultOut, h]; rfl
  case memory => intro h; rw [State.faultOut, h]; rfl

end Sys2Proof.Machine
end
